-- ==== Sys2Proof/Word.lean ====
section
/-! DEFINITION. The word types of the machine (00_scope.md R10 to R17). -/

namespace Sys2Proof

/-- One byte of memory, one V register, one timer (R6, R10, R14). -/
abbrev Byte := BitVec 8

/-- One instruction word, the pc, the index register I, one stack entry (R11, R12, R13, R17). -/
abbrev Word := BitVec 16

/-- A 4-bit register selector, 0..15: it names V0..VF (30_encoding.md R112, R115). -/
abbrev Reg := Fin 16

/-- The selector of VF, the flag register (10_state.md R31). -/
abbrev Reg.vf : Reg := 15

/-- The selector of V0 (10_state.md R32). -/
abbrev Reg.v0 : Reg := 0

end Sys2Proof
end

