-- ==== Sys2Proof/Syntax.lean ====
section
/-! DEFINITION. The instruction set: one constructor per row of spec/opcode_table.json, with the operand fields of
30_encoding.md R112 and R113. The hex pattern, the normative name (R123), stands before each constructor. -/

namespace Sys2Proof

/-- The 34 instructions. `x`, `y` are register selectors; `n`, `nn`, `nnn` are the 4-, 8- and 12-bit immediates. -/
inductive Instr where
  /-- 00E0 -/ | cls
  /-- 00EE -/ | ret
  /-- 1NNN -/ | jp (nnn : BitVec 12)
  /-- 2NNN -/ | call (nnn : BitVec 12)
  /-- 3XNN -/ | seByte (x : Reg) (nn : Byte)
  /-- 4XNN -/ | sneByte (x : Reg) (nn : Byte)
  /-- 5XY0 -/ | seReg (x y : Reg)
  /-- 6XNN -/ | ldByte (x : Reg) (nn : Byte)
  /-- 7XNN -/ | addByte (x : Reg) (nn : Byte)
  /-- 8XY0 -/ | ldReg (x y : Reg)
  /-- 8XY1 -/ | orReg (x y : Reg)
  /-- 8XY2 -/ | andReg (x y : Reg)
  /-- 8XY3 -/ | xorReg (x y : Reg)
  /-- 8XY4 -/ | addReg (x y : Reg)
  /-- 8XY5 -/ | subReg (x y : Reg)
  /-- 8XY6; the Y field is decoded and takes no part in the semantics (R116). -/ | shr (x y : Reg)
  /-- 8XY7 -/ | subnReg (x y : Reg)
  /-- 8XYE; the Y field is decoded and takes no part in the semantics (R116). -/ | shl (x y : Reg)
  /-- 9XY0 -/ | sneReg (x y : Reg)
  /-- ANNN -/ | ldI (nnn : BitVec 12)
  /-- BNNN -/ | jpV0 (nnn : BitVec 12)
  /-- CXNN -/ | rnd (x : Reg) (nn : Byte)
  /-- DXYN -/ | drw (x y : Reg) (n : BitVec 4)
  /-- EX9E -/ | skp (x : Reg)
  /-- EXA1 -/ | sknp (x : Reg)
  /-- FX07 -/ | ldVxDT (x : Reg)
  /-- FX0A -/ | ldVxK (x : Reg)
  /-- FX15 -/ | ldDTVx (x : Reg)
  /-- FX18 -/ | ldSTVx (x : Reg)
  /-- FX1E -/ | addI (x : Reg)
  /-- FX29 -/ | ldF (x : Reg)
  /-- FX33 -/ | ldB (x : Reg)
  /-- FX55 -/ | storeRegs (x : Reg)
  /-- FX65 -/ | loadRegs (x : Reg)
  deriving DecidableEq, Repr

end Sys2Proof
end

