-- ==== Sys2Proof/Config.lean ====
section
/-! DEFINITION. What an implementation fixes: the named parameters of 00_scope.md R6 to R21, and the one free value,
the random draw of CXNN. The numbers are the source's own and unaudited (log 19). -/

namespace Sys2Proof

/-- DRAW_EDGE_POLICY: what DXYN does with a sprite pixel off the 64 by 32 screen (00_scope.md R19, 45_display.md R275). -/
inductive EdgePolicy where
  | wrap
  | clip
  | linear
  | fault
  deriving DecidableEq, Repr

namespace Config

/-- MEM_SIZE (R6). -/
abbrev memSize : Nat := 4096
/-- PROG_START (R7). -/
abbrev progStart : Nat := 0x200
/-- FONT_BASE (R9). -/
abbrev fontBase : Nat := 0x000
/-- GLYPH_BYTES (R9). -/
abbrev glyphBytes : Nat := 5
/-- The size of the font set, FONT_GLYPHS * GLYPH_BYTES (R9). -/
abbrev fontSize : Nat := 80
/-- STACK_DEPTH (R13). -/
abbrev stackDepth : Nat := 16
/-- FB_W, the columns of the screen (R15). -/
abbrev fbW : Nat := 64
/-- FB_H, the rows of the screen (R15). -/
abbrev fbH : Nat := 32
/-- NUM_KEYS (R16). -/
abbrev numKeys : Nat := 16
/-- INSN_BYTES (R17). -/
abbrev insnBytes : Nat := 2
/-- I_FLAG_LIMIT (R18). -/
abbrev iFlagLimit : Nat := 0x0FFF
/-- LOAD_MAX = MEM_SIZE - PROG_START (R21). -/
abbrev loadMax : Nat := memSize - progStart

/-- The default value of FONT: the table of 10_state.md R62, 16 glyphs of 5 bytes.
PRESUMED (log 5): the spec marks the bytes as from general knowledge. -/
def standardFont : List Byte :=
  [0xF0, 0x90, 0x90, 0x90, 0xF0] ++ [0x20, 0x60, 0x20, 0x20, 0x70] ++
  [0xF0, 0x10, 0xF0, 0x80, 0xF0] ++ [0xF0, 0x10, 0xF0, 0x10, 0xF0] ++
  [0x90, 0x90, 0xF0, 0x10, 0x10] ++ [0xF0, 0x80, 0xF0, 0x10, 0xF0] ++
  [0xF0, 0x80, 0xF0, 0x90, 0xF0] ++ [0xF0, 0x10, 0x20, 0x40, 0x40] ++
  [0xF0, 0x90, 0xF0, 0x90, 0xF0] ++ [0xF0, 0x90, 0xF0, 0x10, 0xF0] ++
  [0xF0, 0x90, 0xF0, 0x90, 0x90] ++ [0xE0, 0x90, 0xE0, 0x90, 0xE0] ++
  [0xF0, 0x80, 0x80, 0x80, 0xF0] ++ [0xE0, 0x90, 0x90, 0x90, 0xE0] ++
  [0xF0, 0x80, 0xF0, 0x80, 0xF0] ++ [0xF0, 0x80, 0xF0, 0x80, 0x80]

/-- The free value of the model: the random byte of the n-th draw that the host has not named (R20, 43_alu.md R213,
D18). It has no body, so a claim about it holds for every sequence of draws (log 2). -/
opaque randomDraw : Nat → Byte

end Config

/-- The parameters of one core, fixed when it is constructed (00_scope.md section 4): FONT and DRAW_EDGE_POLICY. -/
structure Config where
  font : Vector Byte 80
  edgePolicy : EdgePolicy
  deriving DecidableEq, Repr

/-- The spec's defaults: the standard font (R62) and WRAP (R19). -/
def Config.default : Config :=
  { font := Vector.ofFn fun k => Config.standardFont.getD k.val 0, edgePolicy := .wrap }

end Sys2Proof
end

