-- ==== Sys2Proof/Machine/State.lean ====
section
/-! DEFINITION. The machine's state as plain data (10_state.md section 11, 70_reset_and_hazards.md R380), the causes of a
fault, and the state after reset. -/

namespace Sys2Proof.Machine

/-- The causes of a fault (60_exceptions.md R341). The spec gives every fault an entry (R345): the record is LATCHED in
the state and the step ends, so a cause stands in `State.fault` and no step answers `Host.Outcome.fault` (log 1).
All are exact: the machine neither stops where the spec goes on nor goes on where the spec stops. -/
inductive Fault where
  /-- Code 1. Raised by `step` at the fetch when pc + 1 ≥ MEM_SIZE. Safe: the spec's own condition (R142). -/
  | fetchOutOfBounds
  /-- Code 2. Raised by `step` at decode when the word matches no pattern. Safe: the spec's own condition (R121). -/
  | illegalInstruction
  /-- Code 3. Raised by 2NNN when SP = 16. Safe: the spec's own condition (R164). -/
  | stackOverflow
  /-- Code 4. Raised by 00EE when SP = 0. Safe: the spec's own condition (R162). -/
  | stackUnderflow
  /-- Code 5. Raised by DXYN, FX33, FX55 and FX65 on an address ≥ MEM_SIZE. Safe: the spec's own condition (R85). -/
  | dataOutOfBounds
  /-- Code 6. Raised by EX9E and EXA1 when V[X] > 15. Safe: the spec faults where an implementation might mask (R301,
  log 14). -/
  | keyIndexOutOfRange
  /-- Code 7. Raised by DXYN under the policies LINEAR and FAULT. Safe: the spec's own condition (R275). -/
  | drawOutOfRange
  deriving DecidableEq, Repr

/-- Why a step has no meaning. No arm of `exec` answers it: every instruction is modelled. -/
inductive Refusal where
  /-- Answered by an arm of `exec` for an instruction without a meaning; safe. No arm does. -/
  | notModelled (mnemonic : String)
  deriving DecidableEq, Repr

/-- The fault record (60_exceptions.md R342). `pc` is the address of the instruction; `word` its word, none where no
complete word was read; `addr` the first address out of range, for the two bounds faults. -/
structure FaultRecord where
  cause : Fault
  pc : Word
  word : Option Word
  addr : Option Nat
  deriving DecidableEq, Repr

/-- Memory: the bytes that differ from the reset contents, by address, addresses strictly rising (`Memory.wf`). -/
abbrev Memory := List Host.Cell

/-- The framebuffer: 32 rows of 64 cells, one bit a cell (10_state.md R52, log 7). The cell at column x and row y, the
spec's `fb[x + 64*y]`, is bit x of row y. -/
abbrev Framebuffer := Vector (BitVec 64) 32

/-- The whole state. The last three fields are the model's own: a parameter of the core, an input port and a counter of
free draws. -/
structure State where
  /-- V0..VF (R30). -/
  v : Vector Byte 16
  /-- The index register (R36). -/
  I : Word
  /-- The program counter (R40). -/
  pc : Word
  /-- The 16 return-address entries (R45). -/
  stack : Vector Word 16
  /-- The number of live stack entries, 0..16 (R45). -/
  sp : Fin 17
  /-- delay_t (R48). -/
  delayT : Byte
  /-- sound_t (R49). -/
  soundT : Byte
  /-- The framebuffer (R52). -/
  fb : Framebuffer
  /-- The keys, true when pressed (R55). -/
  keypad : Vector Bool 16
  /-- true while the core awaits a key (R57). -/
  stopped : Bool
  /-- The X of the FX0A that set `stopped` (R58). -/
  waitX : Reg
  /-- The redraw flag (R59). -/
  redraw : Bool
  /-- The latched fault record (R60). -/
  fault : Option FaultRecord
  /-- The memory (R61). -/
  mem : Memory
  /-- DRAW_EDGE_POLICY of this core, fixed at construction (R19, log 4). -/
  edgePolicy : EdgePolicy
  /-- The payload of the `step(rand)` call being made, if the host has named it (R20, R70, log 2). -/
  rand : Option Byte
  /-- How many draws the core's steps have used up: the index of the next free draw (log 2). -/
  drawCount : Nat
  deriving DecidableEq, Repr

/-- What a step or a meaning answers. -/
abbrev Result := Host.Outcome State Fault Refusal

/-- The state after reset (70_reset_and_hazards.md R380), with the default parameters (R19, R62). The font and the
zeroes of memory are what unlisted addresses read as (`Memory.unlisted`). `rand` and `drawCount`: DESIGN CHOICE, log 3. -/
def State.reset : State :=
  { v := Vector.replicate 16 0
    I := 0x0000
    pc := 0x0200
    stack := Vector.replicate 16 0x0000
    sp := 0
    delayT := 0x00
    soundT := 0x00
    fb := Vector.replicate 32 0
    keypad := Vector.replicate 16 false
    stopped := false
    waitX := 0
    redraw := false
    fault := none
    mem := []
    edgePolicy := .wrap
    rand := none
    drawCount := 0 }

end Sys2Proof.Machine
end

