-- ==== Sys2Proof/Machine/Ops.lean ====
section
/-! DEFINITION. The named operations over memory, registers, the stack, the framebuffer and the timers, and the one
operation that raises a fault. -/

namespace Sys2Proof.Machine

/-! ### Memory (20_memory.md) -/

/-- What an address that memory does not list reads as: the reset contents, the font at 0x000..0x04F and 0x00 elsewhere
(10_state.md R61, R62). -/
def Memory.unlisted (a : Nat) : Byte :=
  if a < Config.fontSize then Config.standardFont.getD a 0 else 0

/-- Read one byte. The access controller admits only addresses below MEM_SIZE (`firstOutOfRange`). -/
def Memory.read : Memory → Nat → Byte
  | [], a => Memory.unlisted a
  | (k, b) :: m, a => if a = k then b else Memory.read m a

/-- Write one byte and keep the canonical form: rising addresses, no entry equal to the unlisted value. -/
def Memory.write : Memory → Nat → Byte → Memory
  | [], a, b => if b = Memory.unlisted a then [] else [(a, b)]
  | (k, c) :: m, a, b =>
    if a < k then (if b = Memory.unlisted a then (k, c) :: m else (a, b) :: (k, c) :: m)
    else if a = k then (if b = Memory.unlisted a then m else (a, b) :: m)
    else (k, c) :: Memory.write m a b

/-- The bytes at a, a+1, ..., a+n-1. -/
def Memory.readBytes (m : Memory) (a : Nat) : Nat → List Byte
  | 0 => []
  | n + 1 => m.read a :: m.readBytes (a + 1) n

/-- Write the bytes at a, a+1, ..., the first at the lowest address. -/
def Memory.writeBytes (m : Memory) (a : Nat) : List Byte → Memory
  | [] => m
  | b :: bs => Memory.writeBytes (m.write a b) (a + 1) bs

/-- The entries of a memory are in canonical form from address `lo` on. -/
def Memory.wfFrom : Nat → Memory → Bool
  | _, [] => true
  | lo, (k, b) :: m =>
    decide (lo ≤ k) && decide (k < Config.memSize) && decide (b ≠ Memory.unlisted k) && Memory.wfFrom (k + 1) m

/-- The canonical form: strictly rising addresses below MEM_SIZE, no entry equal to the unlisted value. -/
def Memory.wf (m : Memory) : Bool := Memory.wfFrom 0 m

/-- The access controller (R85, R87): of the n addresses from a, the lowest that is out of range, if any is. Addresses
are exact numbers and never wrap. -/
def firstOutOfRange (a n : Nat) : Option Nat :=
  if n = 0 ∨ a + n ≤ Config.memSize then none else some (max a Config.memSize)

/-! ### The framebuffer (10_state.md R52) -/

/-- The spec's `fb[k]`. -/
def Framebuffer.cell (fb : Framebuffer) (k : Fin 2048) : Bool :=
  (fb[k.val / 64]'(by omega)).getLsbD (k.val % 64)

/-- The spec's `fb[k] <- fb[k] ^ 1`. -/
def Framebuffer.toggle (fb : Framebuffer) (k : Fin 2048) : Framebuffer :=
  fb.set (k.val / 64) ((fb[k.val / 64]'(by omega)) ^^^ BitVec.twoPow 64 (k.val % 64)) (by omega)

/-- Every cell off. -/
def Framebuffer.clear : Framebuffer := Vector.replicate 32 0

/-! ### Registers and the pc -/

/-- `V[r]`. -/
def State.readV (s : State) (r : Reg) : Byte := s.v[r.val]'r.isLt

/-- `V[r] <- b`. No register is hardwired (R30). -/
def State.writeV (s : State) (r : Reg) (b : Byte) : State := { s with v := s.v.set r.val b r.isLt }

/-- `I <- a`. -/
def State.setI (s : State) (a : Word) : State := { s with I := a }

/-- `pc <- target`. -/
def State.setPc (s : State) (target : Word) : State := { s with pc := target }

/-- `pc <- pc + k`. The 16-bit sum is the exact one wherever a fetch has succeeded (R43, log 18). -/
def State.advance (s : State) (k : Nat) : State := s.setPc (s.pc + BitVec.ofNat 16 k)

/-- Replace the memory. -/
def State.setMem (s : State) (m : Memory) : State := { s with mem := m }

/-- 00E0 and DXYN leave a new frame and raise the redraw flag (R59). -/
def State.setFrame (s : State) (fb : Framebuffer) : State := { s with fb := fb, redraw := true }

/-! ### The call stack (10_state.md R46) -/

/-- Push a return address; none when the stack is full. -/
def State.push (s : State) (a : Word) : Option State :=
  if h : s.sp.val < Config.stackDepth then
    some { s with stack := s.stack.set s.sp.val a h, sp := ⟨s.sp.val + 1, Nat.succ_lt_succ h⟩ }
  else none

/-- Pop a return address; none when the stack is empty. The entry itself stays in place, stale (R45). -/
def State.pop (s : State) : Option (Word × State) :=
  if h : s.sp.val = 0 then none
  else some (s.stack[s.sp.val - 1]'(by omega), { s with sp := ⟨s.sp.val - 1, by omega⟩ })

/-! ### Faults (60_exceptions.md) -/

/-- The numeric codes of the causes (R341). -/
def Fault.code : Fault → Nat
  | .fetchOutOfBounds => 1
  | .illegalInstruction => 2
  | .stackOverflow => 3
  | .stackUnderflow => 4
  | .dataOutOfBounds => 5
  | .keyIndexOutOfRange => 6
  | .drawOutOfRange => 7

/-- Latch a fault record and change nothing else. -/
def State.latch (s : State) (r : FaultRecord) : State := { s with fault := some r }

/-- `raise Fault(cause, pc=pc, word=word, addr=addr)`, the one fault entry (R345): every state element keeps its value,
`fault` latches the record, and the step ends in that state. -/
def raise (cause : Fault) (word : Option Word) (addr : Option Nat) (s : State) : Result :=
  .next (s.latch { cause := cause, pc := s.pc, word := word, addr := addr })

/-- Raise a fault of the instruction `i` itself: its word is `encode i`, the word that decoded to it (log 16). -/
def raiseOf (cause : Fault) (i : Instr) (addr : Option Nat) (s : State) : Result :=
  raise cause (some (encode i)) addr s

/-! ### The fetch (40_step_cycle.md R142) -/

/-- The word at pc, big-endian (20_memory.md R82, R83). -/
def State.fetchWord (s : State) : Word :=
  wordOfBytes (s.mem.read s.pc.toNat) (s.mem.read (s.pc.toNat + 1))

/-- The first address the fetch would touch out of range, if any. -/
def State.fetchFault (s : State) : Option Nat := firstOutOfRange s.pc.toNat Config.insnBytes

/-- The memory with the word at pc replaced, high byte first. -/
def State.placeWord (s : State) (w : Word) : State := s.setMem (s.mem.writeBytes s.pc.toNat (bytesOfWord w))

/-! ### The end of an executed step -/

/-- A countdown that stays at 0. -/
def countDown (t : Byte) : Byte := if t = 0 then 0 else t - 1

/-- TimerTick (40_step_cycle.md R147). -/
def State.timerTick (s : State) : State := { s with delayT := countDown s.delayT, soundT := countDown s.soundT }

/-- The draw of this step: the host's payload, or the next free value (00_scope.md R20, log 2). -/
def State.draw (s : State) : Byte :=
  match s.rand with
  | some r => r
  | none => Config.randomDraw s.drawCount

/-- A draw belongs to one step: an executed step uses it up (log 2). -/
def State.retireDraw (s : State) : State := { s with rand := none, drawCount := s.drawCount + 1 }

/-- What a step does after a handler that raised no fault: the timers tick, and the draw is used up. -/
def State.finishStep (s : State) : State := s.timerTick.retireDraw

/-- After the handler: a raised fault aborts the step before the tick (R145). -/
def afterExec : Result → Result
  | .next t => .next (if t.fault.isSome then t else t.finishStep)
  | .fault f => .fault f
  | .refused r => .refused r

/-! ### Construction (70_reset_and_hazards.md R380) -/

/-- A newly constructed core with the parameters `c`: the reset state, `c`'s font installed at FONT_BASE and `c`'s edge
policy. -/
def State.construct (c : Config) : State :=
  { State.reset with
    mem := Memory.writeBytes [] Config.fontBase c.font.toList
    edgePolicy := c.edgePolicy }

end Sys2Proof.Machine
end

