-- ==== Sys2Proof/Machine/Operands.lean ====
section
/-! DEFINITION. The operand forms: zero-extended immediates (30_encoding.md R114), the bytes an instruction touches
through I (44_index_memory.md R240), the register range of FX55 and FX65, and the decimal digits of FX33. -/

namespace Sys2Proof.Machine

/-- `zext_16(NNN)` (R114). -/
def zext16 (nnn : BitVec 12) : Word := nnn.setWidth 16

/-- The lowest out-of-range address among I, I+1, ..., I+n-1, if any (R242). -/
def State.dataFault (s : State) (n : Nat) : Option Nat := firstOutOfRange s.I.toNat n

/-- The n bytes at I. -/
def State.bytesAtI (s : State) (n : Nat) : List Byte := s.mem.readBytes s.I.toNat n

/-- The state with the bytes stored at I, I+1, .... -/
def State.storeAtI (s : State) (bs : List Byte) : State := s.setMem (s.mem.writeBytes s.I.toNat bs)

/-- How many registers the range V0..VX holds. -/
def rangeSize (x : Reg) : Nat := x.val + 1

/-- The values of V0..VX, in order (R256). -/
def State.regRange (s : State) (x : Reg) : List Byte := s.v.toList.take (rangeSize x)

/-- V0..VX replaced by the bytes at I, I+1, ..., I+X; the other registers unchanged (R259). -/
def State.loadRange (s : State) (x : Reg) : State :=
  { s with v := Vector.ofFn fun k => if k ≤ x then s.mem.read (s.I.toNat + k.val) else s.readV k }

/-- The hundreds, tens and ones of a byte (R251). -/
def bcdDigits (b : Byte) : List Byte :=
  [BitVec.ofNat 8 (b.toNat / 100), BitVec.ofNat 8 (b.toNat / 10 % 10), BitVec.ofNat 8 (b.toNat % 10)]

/-- The address of the glyph of a byte: FONT_BASE + b * GLYPH_BYTES, exact (R248). -/
def glyphAddress (b : Byte) : Word := BitVec.ofNat 16 (Config.fontBase + b.toNat * Config.glyphBytes)

/-- The key a register value names; none when it is above 15 (46_timers_keypad.md R301). -/
def keyIndex (b : Byte) : Option Reg :=
  if h : b.toNat < Config.numKeys then some ⟨b.toNat, h⟩ else none

/-- `keypad[k]`. -/
def State.keyDown (s : State) (k : Reg) : Bool := s.keypad[k.val]'k.isLt

/-- `keypad[k] <- b`. -/
def State.setKey (s : State) (k : Reg) (b : Bool) : State := { s with keypad := s.keypad.set k.val b k.isLt }

end Sys2Proof.Machine
end

