-- ==== Sys2Proof/Machine/Control.lean ====
section
/-! DEFINITION. Control transfer and the call stack: 00EE, 1NNN, 2NNN, BNNN (41_control_transfer.md). -/

namespace Sys2Proof.Machine

/-- 00EE (R162): resume two bytes after the popped call site. -/
def execRet (s : State) : Result :=
  match s.pop with
  | none => raiseOf .stackUnderflow .ret none s
  | some (a, t) => .next (t.setPc (a + 2))

/-- 1NNN (R163). -/
def execJp (nnn : BitVec 12) (s : State) : Result := .next (s.setPc (zext16 nnn))

/-- 2NNN (R164): the pushed value is the address of this 2NNN. -/
def execCall (nnn : BitVec 12) (s : State) : Result :=
  match s.push s.pc with
  | none => raiseOf .stackOverflow (.call nnn) none s
  | some t => .next (t.setPc (zext16 nnn))

/-- BNNN (R166). -/
def execJpV0 (nnn : BitVec 12) (s : State) : Result :=
  .next (s.setPc (zext16 nnn + (s.readV Reg.v0).setWidth 16))

end Sys2Proof.Machine
end

