-- ==== Sys2Proof/Machine/Flags.lean ====
section
/-! DEFINITION. The flag computations. Each reads the operands as they were before the instruction wrote anything
(43_alu.md R201, 10_state.md R33). -/

namespace Sys2Proof.Machine

/-- A flag as VF holds it. -/
def flagByte (b : Bool) : Byte := if b then 1 else 0

/-- The carry of 8XY4: the exact sum exceeds 255 (R208). -/
def carryOut (a b : Byte) : Bool := decide (a.toNat + b.toNat > 255)

/-- The no-borrow flag of a - b (R209, R211). -/
def noBorrow (a b : Byte) : Bool := decide (a.toNat ≥ b.toNat)

/-- The bit that a right shift by one shifts out (R210). -/
def lowBit (a : Byte) : Bool := a.getLsbD 0

/-- The bit that a left shift by one shifts out (R212). -/
def highBit (a : Byte) : Bool := a.getLsbD 7

/-- The flag of FX1E: the exact sum exceeds I_FLAG_LIMIT (R245). -/
def indexOverflow (i : Word) (b : Byte) : Bool := decide (i.toNat + b.toNat > Config.iFlagLimit)

/-- `V[F] <- flag`. -/
def State.setFlag (s : State) (b : Bool) : State := s.writeV Reg.vf (flagByte b)

end Sys2Proof.Machine
end

