-- ==== Sys2Proof/Machine/Display.lean ====
section
/-! DEFINITION. The display instructions: 00E0, DXYN (45_display.md). -/

namespace Sys2Proof.Machine

/-- What a sprite pixel at exact screen coordinates comes to (R275). -/
inductive Target where
  | cell (k : Fin 2048)
  | skip
  | fault
  deriving DecidableEq, Repr

/-- `Target(x, y)` under each edge policy (R275). -/
def target (p : EdgePolicy) (x y : Nat) : Target :=
  match p with
  | .wrap => .cell ⟨x % 64 + 64 * (y % 32), by omega⟩
  | .clip => if h : x < 64 ∧ y < 32 then .cell ⟨x + 64 * y, by omega⟩ else .skip
  | .linear => if h : x + 64 * y < 2048 then .cell ⟨x + 64 * y, h⟩ else .fault
  | .fault => if h : x < 64 ∧ y < 32 then .cell ⟨x + 64 * y, by omega⟩ else .fault

/-- The coordinates of the 1-bits of one sprite row at (x0, y), left to right. Bit 7 is the leftmost pixel
(R274; PRESUMED by the spec from general knowledge, log 12). -/
def rowPixels (x0 y : Nat) (b : Byte) : List (Nat × Nat) :=
  ((List.range 8).filter fun c => b.getLsbD (7 - c)).map fun c => (x0 + c, y)

/-- The coordinates of the 1-bits of a sprite at (x0, y0), row by row (R273). -/
def spritePixels (x0 y0 : Nat) : List Byte → List (Nat × Nat)
  | [] => []
  | b :: bs => rowPixels x0 y0 b ++ spritePixels x0 (y0 + 1) bs

/-- The list T of R272: the target cells in order; none when some pixel's target is FAULT. -/
def collectTargets (p : EdgePolicy) : List (Nat × Nat) → Option (List (Fin 2048))
  | [] => some []
  | (x, y) :: ps =>
    match target p x y with
    | .fault => none
    | .skip => collectTargets p ps
    | .cell k => (collectTargets p ps).map (k :: ·)

/-- Toggle the cells of T in order; the Bool is `collide`, true when some cell was on as its turn came (R272). -/
def xorCells (fb : Framebuffer) : List (Fin 2048) → Framebuffer × Bool
  | [] => (fb, false)
  | t :: ts =>
    let r := xorCells (fb.toggle t) ts
    (r.1, fb.cell t || r.2)

/-- 00E0 (R270). -/
def execCls (s : State) : Result := .next ((s.setFrame Framebuffer.clear).advance 2)

/-- The pixels DXYN places: the sprite of n rows at I, at (V[X], V[Y]) (R272). -/
def State.drawPixels (s : State) (x y : Reg) (n : BitVec 4) : List (Nat × Nat) :=
  spritePixels (s.readV x).toNat (s.readV y).toNat (s.bytesAtI n.toNat)

/-- DXYN (R272): the bounds of the sprite bytes, then the targets, are checked before anything is written. -/
def execDrw (x y : Reg) (n : BitVec 4) (s : State) : Result :=
  match s.dataFault n.toNat with
  | some a => raiseOf .dataOutOfBounds (.drw x y n) (some a) s
  | none =>
    match collectTargets s.edgePolicy (s.drawPixels x y n) with
    | none => raiseOf .drawOutOfRange (.drw x y n) none s
    | some ts =>
      let r := xorCells s.fb ts
      .next (((s.setFrame r.1).setFlag r.2).advance 2)

end Sys2Proof.Machine
end

