-- ==== Sys2Proof/Machine/Index.lean ====
section
/-! DEFINITION. The index register and the data loads and stores: ANNN, FX1E, FX29, FX33, FX55, FX65
(44_index_memory.md). Every address is checked before any byte is read or written (20_memory.md R87); none of them
changes I by using it (R241). -/

namespace Sys2Proof.Machine

/-- ANNN (R243). -/
def execLdI (nnn : BitVec 12) (s : State) : Result := .next ((s.setI (zext16 nnn)).advance 2)

/-- FX1E (R245): I modulo 65536 (10_state.md R38), VF from the exact sum, last. -/
def execAddI (x : Reg) (s : State) : Result :=
  .next (((s.setI (s.I + (s.readV x).setWidth 16)).setFlag (indexOverflow s.I (s.readV x))).advance 2)

/-- FX29 (R248). -/
def execLdF (x : Reg) (s : State) : Result := .next ((s.setI (glyphAddress (s.readV x))).advance 2)

/-- FX33 (R251). -/
def execLdB (x : Reg) (s : State) : Result :=
  match s.dataFault 3 with
  | some a => raiseOf .dataOutOfBounds (.ldB x) (some a) s
  | none => .next ((s.storeAtI (bcdDigits (s.readV x))).advance 2)

/-- FX55 (R256). -/
def execStoreRegs (x : Reg) (s : State) : Result :=
  match s.dataFault (rangeSize x) with
  | some a => raiseOf .dataOutOfBounds (.storeRegs x) (some a) s
  | none => .next ((s.storeAtI (s.regRange x)).advance 2)

/-- FX65 (R259). -/
def execLoadRegs (x : Reg) (s : State) : Result :=
  match s.dataFault (rangeSize x) with
  | some a => raiseOf .dataOutOfBounds (.loadRegs x) (some a) s
  | none => .next ((s.loadRange x).advance 2)

end Sys2Proof.Machine
end

