-- ==== Sys2Proof/Machine/Alu.lean ====
section
/-! DEFINITION. The register and ALU instructions: 6XNN, 7XNN, 8XY0 to 8XY7, 8XYE, CXNN (43_alu.md). -/

namespace Sys2Proof.Machine

/-- Write the destination and go on to the next instruction; no flag. -/
def writeResult (x : Reg) (b : Byte) (s : State) : Result := .next ((s.writeV x b).advance 2)

/-- Write the destination, then VF, last (10_state.md R33), and go on to the next instruction. -/
def writeResultAndFlag (x : Reg) (b : Byte) (flag : Bool) (s : State) : Result :=
  .next (((s.writeV x b).setFlag flag).advance 2)

/-- 6XNN (R202). -/
def execLdByte (x : Reg) (nn : Byte) (s : State) : Result := writeResult x nn s

/-- 7XNN (R203). -/
def execAddByte (x : Reg) (nn : Byte) (s : State) : Result := writeResult x (s.readV x + nn) s

/-- 8XY0 (R204). -/
def execLdReg (x y : Reg) (s : State) : Result := writeResult x (s.readV y) s

/-- 8XY1 (R205). -/
def execOrReg (x y : Reg) (s : State) : Result := writeResult x (s.readV x ||| s.readV y) s

/-- 8XY2 (R206). -/
def execAndReg (x y : Reg) (s : State) : Result := writeResult x (s.readV x &&& s.readV y) s

/-- 8XY3 (R207). -/
def execXorReg (x y : Reg) (s : State) : Result := writeResult x (s.readV x ^^^ s.readV y) s

/-- 8XY4 (R208). -/
def execAddReg (x y : Reg) (s : State) : Result :=
  writeResultAndFlag x (s.readV x + s.readV y) (carryOut (s.readV x) (s.readV y)) s

/-- 8XY5 (R209). -/
def execSubReg (x y : Reg) (s : State) : Result :=
  writeResultAndFlag x (s.readV x - s.readV y) (noBorrow (s.readV x) (s.readV y)) s

/-- 8XY6 (R210): the source is V[X]; Y is ignored (30_encoding.md R116). -/
def execShr (x _y : Reg) (s : State) : Result := writeResultAndFlag x (s.readV x >>> 1) (lowBit (s.readV x)) s

/-- 8XY7 (R211). -/
def execSubnReg (x y : Reg) (s : State) : Result :=
  writeResultAndFlag x (s.readV y - s.readV x) (noBorrow (s.readV y) (s.readV x)) s

/-- 8XYE (R212): the source is V[X]; Y is ignored (30_encoding.md R116). -/
def execShl (x _y : Reg) (s : State) : Result := writeResultAndFlag x (s.readV x <<< 1) (highBit (s.readV x)) s

/-- CXNN (R213), with the draw of this step. -/
def execRnd (x : Reg) (nn : Byte) (s : State) : Result := writeResult x (s.draw &&& nn) s

end Sys2Proof.Machine
end

