-- ==== Sys2Proof/Machine/Skip.lean ====
section
/-! DEFINITION. The conditional skips on registers and immediates: 3XNN, 4XNN, 5XY0, 9XY0 (42_skip.md). -/

namespace Sys2Proof.Machine

/-- pc + 4 when the condition holds, pc + 2 when it fails (R180). -/
def skipIf (c : Bool) (s : State) : Result := .next (s.advance (if c then 4 else 2))

/-- 3XNN (R182). -/
def execSeByte (x : Reg) (nn : Byte) (s : State) : Result := skipIf (s.readV x == nn) s

/-- 4XNN (R183). -/
def execSneByte (x : Reg) (nn : Byte) (s : State) : Result := skipIf (s.readV x != nn) s

/-- 5XY0 (R184). -/
def execSeReg (x y : Reg) (s : State) : Result := skipIf (s.readV x == s.readV y) s

/-- 9XY0 (R185). -/
def execSneReg (x y : Reg) (s : State) : Result := skipIf (s.readV x != s.readV y) s

end Sys2Proof.Machine
end

