-- ==== Sys2Proof/Machine/TimersKeypad.lean ====
section
/-! DEFINITION. The timer and keypad instructions: EX9E, EXA1, FX07, FX0A, FX15, FX18 (46_timers_keypad.md). -/

namespace Sys2Proof.Machine

/-- EX9E (R300); a key index above 15 faults (R301, log 14). -/
def execSkp (x : Reg) (s : State) : Result :=
  match keyIndex (s.readV x) with
  | none => raiseOf .keyIndexOutOfRange (.skp x) none s
  | some k => skipIf (s.keyDown k) s

/-- EXA1 (R302); a key index above 15 faults (R301, log 14). -/
def execSknp (x : Reg) (s : State) : Result :=
  match keyIndex (s.readV x) with
  | none => raiseOf .keyIndexOutOfRange (.sknp x) none s
  | some k => skipIf (!s.keyDown k) s

/-- FX07 (R304): the value before this step's tick. -/
def execLdVxDT (x : Reg) (s : State) : Result := writeResult x s.delayT s

/-- FX0A (R310): the core stops and remembers X; `handle_input` completes it (R316, log 13). -/
def execLdVxK (x : Reg) (s : State) : Result := .next ({ s with stopped := true, waitX := x }.advance 2)

/-- FX15 (R312); the tick of the same step follows (40_step_cycle.md R148). -/
def execLdDTVx (x : Reg) (s : State) : Result := .next ({ s with delayT := s.readV x }.advance 2)

/-- FX18 (R314); the tick of the same step follows (40_step_cycle.md R148). -/
def execLdSTVx (x : Reg) (s : State) : Result := .next ({ s with soundT := s.readV x }.advance 2)

end Sys2Proof.Machine
end

