-- ==== Sys2Proof/Machine/Step.lean ====
section
/-! DEFINITION. One step (40_step_cycle.md R140), and the placing of a word where the next step fetches. -/

namespace Sys2Proof.Machine

/-- One step: nothing when a fault is latched (10_state.md R76) or the core awaits a key (R141); else fetch, decode,
execute, tick, with the checks in the order of R146 and R348. -/
def step (s : State) : Host.Outcome State Fault Refusal :=
  if s.fault.isSome then .next s
  else if s.stopped then .next s
  else
    match s.fetchFault with
    | some a => raise .fetchOutOfBounds none (some a) s
    | none =>
      match decode s.fetchWord with
      | none => raise .illegalInstruction (some s.fetchWord) none s
      | some i => afterExec (exec i s)

/-- `s` about to run the instruction that spec/opcode_table.json numbers as `w`: the word stands at pc, and what would
keep the next step from fetching it (a latched fault, a key wait, a pc with no two bytes) is lifted (logs 10, 11). -/
def State.withFetchWord (s : State) (nbits w : Nat) : State :=
  { s with
    fault := none
    stopped := false
    pc := if s.fetchFault.isSome then BitVec.ofNat 16 Config.progStart else s.pc }.placeWord (tableWord nbits w)

end Sys2Proof.Machine
end

