-- ==== Sys2Proof/WellFormed.lean ====
section
/-! DEFINITION. Well-formedness: of instructions (their operand types are exactly the fields of 30_encoding.md R112, so
every term of `Instr` is well formed) and of the host's calls, whose payloads the core checks at the call
(10_state.md R73). -/

namespace Sys2Proof

/-- An instruction is well formed when each operand fits its field (R112, R115: any X, any Y and any immediate may be
chosen). The operand types hold exactly the fields' values, so this says yes to every instruction; the ill-formed
encodings are words, and `decode` refuses them. -/
def Instr.wf : Instr → Bool := fun _ => true

/-- A key event as the host sends it (46_timers_keypad.md R316, R317). The index is a natural number, wider than the
4 bits of a hardware port, so the model must reject indices outside 0..15 (R318). -/
inductive KeyEvent where
  | down (k : Nat)
  | up (k : Nat)
  deriving DecidableEq, Repr

/-- The host's calls that can change the state (10_state.md R70). -/
inductive HostCall where
  | step (rand : Byte)
  | load (bytes : List Byte)
  | handleInput (e : KeyEvent)
  | ackRedraw
  deriving DecidableEq, Repr

/-- The key a key event names. -/
def KeyEvent.key : KeyEvent → Nat
  | .down k => k
  | .up k => k

/-- A key event names one of the 16 keys (R318). -/
def KeyEvent.wf (e : KeyEvent) : Bool := decide (e.key < Config.numKeys)

/-- An image fits the program area (20_memory.md R95). -/
def imageFits (bytes : List Byte) : Bool := decide (bytes.length ≤ Config.loadMax)

/-- A host call is not caller misuse (10_state.md R73). -/
def HostCall.wf : HostCall → Bool
  | .step _ => true
  | .load bytes => imageFits bytes
  | .handleInput e => e.wf
  | .ackRedraw => true

end Sys2Proof
end

