-- ==== Sys2Proof/Machine/HostCalls.lean ====
section
/-! DEFINITION. The host's calls and the read ports (10_state.md R70 to R76): each call is one atomic transition between
two steps (R71, log 9). -/

namespace Sys2Proof.Machine

/-- What a host call comes to: done, or rejected at the call with no state change (R73, R76). -/
inductive CallOutcome where
  | accepted (s : State)
  | rejected
  deriving DecidableEq, Repr

/-- Put a draw on the input port of `step(rand)`, or take it off. -/
def State.setRand (s : State) (r : Option Byte) : State := { s with rand := r }

/-- Apply a function to the next state of an outcome. -/
def mapNext (f : State → State) : Result → Result
  | .next t => .next (f t)
  | .fault c => .fault c
  | .refused r => .refused r

/-- The call `step(rand)` (R140): one step whose draw is `rand`; the port is empty after the call. -/
def stepWith (rand : Byte) (s : State) : Result := mapNext (·.setRand none) (step (s.setRand (some rand)))

/-- `load(bytes)` (20_memory.md R95): rejected when too long or after a fault (R76). -/
def load (bytes : List Byte) (s : State) : CallOutcome :=
  if s.fault.isSome || !imageFits bytes then .rejected
  else .accepted (s.setMem (s.mem.writeBytes Config.progStart bytes))

/-- `handle_input(Down(k))` on a key of the pad (46_timers_keypad.md R316): the key is down, and a waiting core receives
its index and runs again. -/
def State.pressKey (s : State) (k : Reg) : State :=
  if s.stopped then { (s.setKey k true).writeV s.waitX (BitVec.ofNat 8 k.val) with stopped := false }
  else s.setKey k true

/-- `handle_input(Up(k))` on a key of the pad (R317). -/
def State.releaseKey (s : State) (k : Reg) : State := s.setKey k false

/-- `handle_input(e)`: rejected on a key index outside 0..15 (R318) or after a fault (R76). -/
def handleInput (e : KeyEvent) (s : State) : CallOutcome :=
  if s.fault.isSome then .rejected
  else
    match e with
    | .down k => if h : k < Config.numKeys then .accepted (s.pressKey ⟨k, h⟩) else .rejected
    | .up k => if h : k < Config.numKeys then .accepted (s.releaseKey ⟨k, h⟩) else .rejected

/-- `ack_redraw` (R74): clears the redraw flag, also after a fault (R76). -/
def ackRedraw (s : State) : CallOutcome := .accepted { s with redraw := false }

/-- Any call of the host. A step that had no meaning would be no call the core accepts; none is such. -/
def hostCall (c : HostCall) (s : State) : CallOutcome :=
  match c with
  | .step rand =>
    match stepWith rand s with
    | .next t => .accepted t
    | _ => .rejected
  | .load bytes => load bytes s
  | .handleInput e => handleInput e s
  | .ackRedraw => ackRedraw s

/-- The port `fb_read` (R74). -/
def State.fbRead (s : State) (k : Fin 2048) : Bool := s.fb.cell k

/-- The port `redraw` (R70). -/
def State.redrawPort (s : State) : Bool := s.redraw

/-- The port `beep` (R75): derived from the sound timer. -/
def State.beep (s : State) : Bool := s.soundT != 0

/-- The port `fault` (R70). -/
def State.faultPort (s : State) : Option FaultRecord := s.fault

end Sys2Proof.Machine
end

