-- ==== Sys2Proof/Safety.lean ====
section
/-! DEFINITION. What claims are stated in: safe states, the invariant of the machine, the states a run can reach, and
the frames (what a transition leaves unchanged). -/

namespace Sys2Proof.Machine

/-! ### Safe states -/

/-- No fault is latched. A latched fault is never a good final state (60_exceptions.md R357). -/
def State.Unfaulted (s : State) : Prop := s.fault = none

/-- The core executes an instruction at its next step, if the fetch and the instruction raise nothing: no fault is
latched and no key is awaited (46_timers_keypad.md R319). -/
def State.Running (s : State) : Prop := s.fault = none ∧ s.stopped = false

/-- The two bytes at pc are in memory (20_memory.md R85). -/
def State.CanFetch (s : State) : Prop := s.pc.toNat + 1 < Config.memSize

/-- Every address I, I+1, ..., I+n-1 is in memory (44_index_memory.md R242). -/
def State.DataInBounds (s : State) (n : Nat) : Prop := n = 0 ∨ s.I.toNat + n ≤ Config.memSize

/-! ### The invariant -/

/-- A record says what its cause requires (60_exceptions.md R342): no word only for a fetch fault, an address at or
above MEM_SIZE exactly for the two bounds faults, an illegal word for a decode fault and a legal one for the
handlers' faults. -/
def FaultRecord.Consistent (r : FaultRecord) : Prop :=
  (r.word = none ↔ r.cause = .fetchOutOfBounds) ∧
  (r.addr = none ↔ r.cause ≠ .fetchOutOfBounds ∧ r.cause ≠ .dataOutOfBounds) ∧
  (∀ a, r.addr = some a → Config.memSize ≤ a) ∧
  (∀ w, r.word = some w → (decode w = none ↔ r.cause = .illegalInstruction))

/-- The invariant of the machine: memory in its canonical form; pc at most 0x10FE, so that no pc sum ever wraps
(10_state.md R43); every stack entry an address at which a fetch succeeded (41_control_transfer.md R162); a latched
fault is consistent, holds the pc at which the core stands, and never stands beside a key wait. -/
structure State.Inv (s : State) : Prop where
  memCanonical : s.mem.wf = true
  pcBound : s.pc.toNat ≤ 0x10FE
  stackBound : ∀ k : Fin 16, s.stack[k].toNat ≤ 0xFFE
  faultRecord : ∀ r, s.fault = some r → r.Consistent ∧ r.pc = s.pc ∧ s.stopped = false

/-- The states a host can bring a core to: construction with any parameters, then any calls (70_reset_and_hazards.md
R390, log 9). -/
inductive Reachable : State → Prop where
  | construct (c : Config) : Reachable (State.construct c)
  | call {s t : State} (c : HostCall) (h : Reachable s) (hc : hostCall c s = .accepted t) : Reachable t

/-! ### Frames: what is the same in `t` as in `s` -/

/-- Every V register but those listed. -/
def SameRegsBut (ds : List Reg) (s t : State) : Prop := ∀ r, r ∉ ds → t.readV r = s.readV r

/-- Every byte of memory, read by the model's own read of one byte. -/
def SameMemory (s t : State) : Prop := ∀ a, t.mem.read a = s.mem.read a

/-- Every byte of memory outside the n bytes at `a`. -/
def SameMemoryOutside (a n : Nat) (s t : State) : Prop :=
  ∀ b, b < a ∨ a + n ≤ b → t.mem.read b = s.mem.read b

/-- The stack entries and SP. -/
def SameStack (s t : State) : Prop := t.stack = s.stack ∧ t.sp = s.sp

/-- Both timers. -/
def SameTimers (s t : State) : Prop := t.delayT = s.delayT ∧ t.soundT = s.soundT

/-- Every cell of the framebuffer, and the redraw flag. -/
def SameDisplay (s t : State) : Prop := (∀ k, t.fb.cell k = s.fb.cell k) ∧ t.redraw = s.redraw

/-- The keypad and the key wait. -/
def SameKeys (s t : State) : Prop := t.keypad = s.keypad ∧ t.stopped = s.stopped ∧ t.waitX = s.waitX

/-- The fault record and the model's own fields. -/
def SameRecord (s t : State) : Prop :=
  t.fault = s.fault ∧ t.edgePolicy = s.edgePolicy ∧ t.rand = s.rand ∧ t.drawCount = s.drawCount

/-- Everything but the V registers listed and the pc. -/
def ChangesOnlyRegs (ds : List Reg) (s t : State) : Prop :=
  SameRegsBut ds s t ∧ t.I = s.I ∧ SameMemory s t ∧ SameStack s t ∧ SameTimers s t ∧ SameDisplay s t ∧ SameKeys s t ∧
  SameRecord s t

/-- Everything but the V registers listed, I and the pc. -/
def ChangesOnlyIndex (ds : List Reg) (s t : State) : Prop :=
  SameRegsBut ds s t ∧ SameMemory s t ∧ SameStack s t ∧ SameTimers s t ∧ SameDisplay s t ∧ SameKeys s t ∧
  SameRecord s t

/-- Everything but the n bytes of memory at `a` and the pc. -/
def ChangesOnlyMemory (a n : Nat) (s t : State) : Prop :=
  SameRegsBut [] s t ∧ t.I = s.I ∧ SameMemoryOutside a n s t ∧ SameStack s t ∧ SameTimers s t ∧ SameDisplay s t ∧
  SameKeys s t ∧ SameRecord s t

/-- Everything but the stack entries, SP and the pc. -/
def ChangesOnlyStack (s t : State) : Prop :=
  SameRegsBut [] s t ∧ t.I = s.I ∧ SameMemory s t ∧ SameTimers s t ∧ SameDisplay s t ∧ SameKeys s t ∧ SameRecord s t

/-- Everything but the V registers listed, the framebuffer, the redraw flag and the pc. -/
def ChangesOnlyDisplay (ds : List Reg) (s t : State) : Prop :=
  SameRegsBut ds s t ∧ t.I = s.I ∧ SameMemory s t ∧ SameStack s t ∧ SameTimers s t ∧ SameKeys s t ∧ SameRecord s t

/-- Everything but the timers and the pc. -/
def ChangesOnlyTimers (s t : State) : Prop :=
  SameRegsBut [] s t ∧ t.I = s.I ∧ SameMemory s t ∧ SameStack s t ∧ SameDisplay s t ∧ SameKeys s t ∧ SameRecord s t

/-! ### What statements about encodings and sprites say -/

/-- The instruction is encoded with these fixed bits under this mask, and the encoded word decodes to it: its rule's
"Encoding" line. -/
def EncodedAs (i : Instr) (mask bits : Word) : Prop := encode i &&& mask = bits ∧ decode (encode i) = some i

/-- The state with the record latched and nothing else changed (60_exceptions.md R345). -/
def Latched (r : FaultRecord) (s : State) : State := { s with fault := some r }

/-- The state with a fault of the instruction `i` latched and nothing else changed (60_exceptions.md R342, R345). -/
def Faulted (c : Fault) (i : Instr) (addr : Option Nat) (s : State) : State :=
  { s with fault := some { cause := c, pc := s.pc, word := some (encode i), addr := addr } }

/-- How many data bytes an instruction touches, at I, I+1, ...: the table of 20_memory.md R87. -/
def bytesTouched : Instr → Nat
  | .ldB _ => 3
  | .storeRegs x => x.val + 1
  | .loadRegs x => x.val + 1
  | .drw _ _ n => n.toNat
  | _ => 0

/-- The draw DXYN places a sprite pixel at the exact coordinates (px, py): some row r below N and some column c have
the bit `(row[r] >> (7 - c)) & 1` set (45_display.md R272, R273, R274). -/
def SpritePixel (s : State) (x y : Reg) (n : BitVec 4) (px py : Nat) : Prop :=
  ∃ r c, r < n.toNat ∧ c < 8 ∧ (s.mem.read (s.I.toNat + r)).toNat / 2 ^ (7 - c) % 2 = 1 ∧
    px = (s.readV x).toNat + c ∧ py = (s.readV y).toNat + r

/-- The policy maps the pixel at (px, py) to the cell `fb[k]`: the table of 45_display.md R275. -/
def PixelCell (p : EdgePolicy) (px py k : Nat) : Prop :=
  match p with
  | .wrap => k = px % 64 + 64 * (py % 32)
  | .clip => px < 64 ∧ py < 32 ∧ k = px + 64 * py
  | .linear => k = px + 64 * py ∧ k < 2048
  | .fault => px < 64 ∧ py < 32 ∧ k = px + 64 * py

/-- The policy's target of the pixel at (px, py) is FAULT: the table of 45_display.md R275. -/
def PixelFaults (p : EdgePolicy) (px py : Nat) : Prop :=
  match p with
  | .wrap => False
  | .clip => False
  | .linear => 2048 ≤ px + 64 * py
  | .fault => ¬(px < 64 ∧ py < 32)

/-- Some pixel of the sprite of DXYN lands on the cell `fb[k]`. -/
def SpriteHits (s : State) (x y : Reg) (n : BitVec 4) (k : Fin 2048) : Prop :=
  ∃ px py, SpritePixel s x y n px py ∧ PixelCell s.edgePolicy px py k.val

/-- Some pixel of the sprite of DXYN has the target FAULT. -/
def SpriteFaults (s : State) (x y : Reg) (n : BitVec 4) : Prop :=
  ∃ px py, SpritePixel s x y n px py ∧ PixelFaults s.edgePolicy px py

/-- The V registers an instruction may write when it executes: its destination VX, VF where the instruction defines a
flag, the range V0..VX of FX65 (10_state.md R31). -/
def mayWrite : Instr → List Reg
  | .ldByte x _ | .addByte x _ | .ldReg x _ | .orReg x _ | .andReg x _ | .xorReg x _ | .rnd x _ | .ldVxDT x => [x]
  | .addReg x _ | .subReg x _ | .shr x _ | .subnReg x _ | .shl x _ => [x, Reg.vf]
  | .drw _ _ _ | .addI _ => [Reg.vf]
  | .loadRegs x => (List.finRange 16).filter (· ≤ x)
  | .cls | .ret | .jp _ | .call _ | .seByte _ _ | .sneByte _ _ | .seReg _ _ | .sneReg _ _ | .ldI _ | .jpV0 _ => []
  | .skp _ | .sknp _ | .ldVxK _ | .ldDTVx _ | .ldSTVx _ | .ldF _ | .ldB _ | .storeRegs _ => []

end Sys2Proof.Machine
end

