-- ==== Sys2Proof/Certificates/Slice0/Obligations.lean ====
section
/-! DEFINITION. The statements about the model. Each docstring names the rule or section of spec/ it formalises; where
a statement rests on a decision or inference that the spec marks as its own, the docstring says so. -/

open Sys2Proof Sys2Proof.Machine

/-! ### Encoding -/

/-- 30_encoding.md sections 1 to 3: no bit of an encoding is dropped. Decoding an encoded instruction gives it back,
with every operand at every value. -/
def Obligations.DecodeOfEncode : Prop := ∀ i : Instr, i.wf = true → decode (encode i) = some i

/-- 30_encoding.md section 4: the other direction. A legal word is the encoding of the instruction it decodes to, the
ignored Y field of 8XY6 and 8XYE included. -/
def Obligations.EncodeOfDecode : Prop := ∀ (w : Word) (i : Instr), decode w = some i → encode i = w

/-- R118 and R120, the opcode map and its illegal words, each row by its mask and match; the operands are the fields of
R112, taken from the word by division and remainder. -/
def Obligations.DecodeFollowsOpcodeMap : Prop :=
  ∀ (w : Word) (x y : Reg) (n : BitVec 4) (nn : Byte) (nnn : BitVec 12),
    x.val = w.toNat / 256 % 16 → y.val = w.toNat / 16 % 16 → n.toNat = w.toNat % 16 → nn.toNat = w.toNat % 256 →
    nnn.toNat = w.toNat % 4096 →
    (w = 0x00E0 → decode w = some .cls) ∧
    (w = 0x00EE → decode w = some .ret) ∧
    (w &&& 0xF000 = 0x0000 → w ≠ 0x00E0 → w ≠ 0x00EE → decode w = none) ∧
    (w &&& 0xF000 = 0x1000 → decode w = some (.jp nnn)) ∧
    (w &&& 0xF000 = 0x2000 → decode w = some (.call nnn)) ∧
    (w &&& 0xF000 = 0x3000 → decode w = some (.seByte x nn)) ∧
    (w &&& 0xF000 = 0x4000 → decode w = some (.sneByte x nn)) ∧
    (w &&& 0xF000 = 0x5000 → decode w = if n = 0 then some (.seReg x y) else none) ∧
    (w &&& 0xF000 = 0x6000 → decode w = some (.ldByte x nn)) ∧
    (w &&& 0xF000 = 0x7000 → decode w = some (.addByte x nn)) ∧
    (w &&& 0xF00F = 0x8000 → decode w = some (.ldReg x y)) ∧
    (w &&& 0xF00F = 0x8001 → decode w = some (.orReg x y)) ∧
    (w &&& 0xF00F = 0x8002 → decode w = some (.andReg x y)) ∧
    (w &&& 0xF00F = 0x8003 → decode w = some (.xorReg x y)) ∧
    (w &&& 0xF00F = 0x8004 → decode w = some (.addReg x y)) ∧
    (w &&& 0xF00F = 0x8005 → decode w = some (.subReg x y)) ∧
    (w &&& 0xF00F = 0x8006 → decode w = some (.shr x y)) ∧
    (w &&& 0xF00F = 0x8007 → decode w = some (.subnReg x y)) ∧
    (w &&& 0xF00F = 0x800E → decode w = some (.shl x y)) ∧
    (w &&& 0xF000 = 0x8000 → n ∈ [0x8#4, 0x9#4, 0xA#4, 0xB#4, 0xC#4, 0xD#4, 0xF#4] → decode w = none) ∧
    (w &&& 0xF000 = 0x9000 → decode w = if n = 0 then some (.sneReg x y) else none) ∧
    (w &&& 0xF000 = 0xA000 → decode w = some (.ldI nnn)) ∧
    (w &&& 0xF000 = 0xB000 → decode w = some (.jpV0 nnn)) ∧
    (w &&& 0xF000 = 0xC000 → decode w = some (.rnd x nn)) ∧
    (w &&& 0xF000 = 0xD000 → decode w = some (.drw x y n)) ∧
    (w &&& 0xF0FF = 0xE09E → decode w = some (.skp x)) ∧
    (w &&& 0xF0FF = 0xE0A1 → decode w = some (.sknp x)) ∧
    (w &&& 0xF000 = 0xE000 → nn ∉ [0x9E#8, 0xA1#8] → decode w = none) ∧
    (w &&& 0xF0FF = 0xF007 → decode w = some (.ldVxDT x)) ∧
    (w &&& 0xF0FF = 0xF00A → decode w = some (.ldVxK x)) ∧
    (w &&& 0xF0FF = 0xF015 → decode w = some (.ldDTVx x)) ∧
    (w &&& 0xF0FF = 0xF018 → decode w = some (.ldSTVx x)) ∧
    (w &&& 0xF0FF = 0xF01E → decode w = some (.addI x)) ∧
    (w &&& 0xF0FF = 0xF029 → decode w = some (.ldF x)) ∧
    (w &&& 0xF0FF = 0xF033 → decode w = some (.ldB x)) ∧
    (w &&& 0xF0FF = 0xF055 → decode w = some (.storeRegs x)) ∧
    (w &&& 0xF0FF = 0xF065 → decode w = some (.loadRegs x)) ∧
    (w &&& 0xF000 = 0xF000 →
      nn ∉ [0x07#8, 0x0A#8, 0x15#8, 0x18#8, 0x1E#8, 0x29#8, 0x33#8, 0x55#8, 0x65#8] → decode w = none)

/-- 30_encoding.md sections 4 and 5 (R119 is marked derived by the spec): a word is illegal exactly when no row of the
spec's opcode table covers it, the row that covers a legal word is its own instruction's, and no word has two rows. -/
def Obligations.OpcodeTableIsUnambiguous : Prop :=
  (∀ w : Word, decode w = none ↔ ∀ r ∈ opcodeTable, r.covers w = false) ∧
  (∀ (w : Word) (i : Instr), decode w = some i → i.row ∈ opcodeTable ∧ i.row.covers w = true) ∧
  (∀ (w : Word), ∀ r ∈ opcodeTable, ∀ q ∈ opcodeTable, r.covers w = true → q.covers w = true → r = q)

/-- 30_encoding.md section 4: words written out from the spec's patterns, one of each format, decode to the
instructions they stand for. A sanity statement. -/
def Obligations.WordsOfTheSpecDecode : Prop :=
  decode 0b0000000011100000 = some .cls ∧
  decode 0b0010001000001010 = some (.call 0x20A) ∧
  decode 0b0011001101000010 = some (.seByte 3 0x42) ∧
  decode 0b1000101010110100 = some (.addReg 10 11) ∧
  decode 0b1101000100100101 = some (.drw 1 2 5) ∧
  decode 0b1111010101010101 = some (.storeRegs 5) ∧
  decode 0b0101000100100001 = none

/-! ### The step -/

/-- 40_step_cycle.md section 1: when the two bytes at pc are the word of an instruction, a step of a running core is
that instruction's handler, and, where it latches no fault, one tick of the timers. That the draw port is then empty and
the draw counter one higher is the model's own choice (log 2). -/
def Obligations.StepRunsDecodedInstruction : Prop :=
  ∀ (s : State) (i : Instr) (w : Word), s.Running → s.CanFetch →
    w.toNat = (s.mem.read s.pc.toNat).toNat * 256 + (s.mem.read (s.pc.toNat + 1)).toNat → decode w = some i →
    ∀ t, exec i s = .next t →
      (t.fault ≠ none → step s = .next t) ∧
      (t.fault = none → ∃ u, step s = .next u ∧ u.delayT.toNat = t.delayT.toNat - 1 ∧
        u.soundT.toNat = t.soundT.toNat - 1 ∧
        u = { t with delayT := u.delayT, soundT := u.soundT, rand := none, drawCount := t.drawCount + 1 })

/-- 40_step_cycle.md section 1 (R140): what one call `step(rand)` does, case by case, for every draw. That the call finds
and leaves the draw port empty, and that an executed step adds one to the draw counter, is the model's own choice
(log 2). -/
def Obligations.StepCallFollowsTheCycle : Prop :=
  ∀ (s : State) (rand : Byte), s.rand = none →
    (s.fault ≠ none → stepWith rand s = .next s) ∧
    (s.fault = none → s.stopped = true → stepWith rand s = .next s) ∧
    (s.Running → s.pc.toNat + 1 ≥ 4096 → stepWith rand s = .next (Latched
      ⟨.fetchOutOfBounds, s.pc, none, some (if s.pc.toNat ≥ 4096 then s.pc.toNat else s.pc.toNat + 1)⟩ s)) ∧
    (s.Running → s.pc.toNat + 1 < 4096 → ∀ w : Word,
      w.toNat = (s.mem.read s.pc.toNat).toNat * 256 + (s.mem.read (s.pc.toNat + 1)).toNat →
      (decode w = none → stepWith rand s = .next (Latched ⟨.illegalInstruction, s.pc, some w, none⟩ s)) ∧
      (∀ i, decode w = some i → ∃ t, exec i { s with rand := some rand } = .next t ∧
        (t.fault ≠ none → stepWith rand s = .next { t with rand := none }) ∧
        (t.fault = none → ∃ u, stepWith rand s = .next u ∧
          u.delayT.toNat = (if t.delayT.toNat ≠ 0 then t.delayT.toNat - 1 else t.delayT.toNat) ∧
          u.soundT.toNat = (if t.soundT.toNat ≠ 0 then t.soundT.toNat - 1 else t.soundT.toNat) ∧
          u = { t with delayT := u.delayT, soundT := u.soundT, rand := none, drawCount := t.drawCount + 1 })))

/-- R141: a step while `stopped` is true is a no-op. -/
def Obligations.StepWhileStoppedIsNoOp : Prop :=
  ∀ s : State, s.stopped = true → step s = .next s ∧ ∀ rand, s.rand = none → stepWith rand s = .next s

/-- R142: the fetch faults at pc ≥ 0xFFF before any other effect; at 0xFFF the address reported is 0x1000. -/
def Obligations.FetchOutOfBoundsFaults : Prop :=
  ∀ s : State, s.Running → s.pc.toNat ≥ 0xFFF →
    step s = .next (Latched
      ⟨.fetchOutOfBounds, s.pc, none, some (if s.pc.toNat = 0xFFF then 0x1000 else s.pc.toNat)⟩ s)

/-- R121: executing an illegal word latches the decode fault and changes nothing else; no word falls through to a
no-op. -/
def Obligations.IllegalWordFaults : Prop :=
  ∀ (s : State) (w : Word), s.Running → s.CanFetch →
    w.toNat = (s.mem.read s.pc.toNat).toNat * 256 + (s.mem.read (s.pc.toNat + 1)).toNat → decode w = none →
    step s = .next (Latched ⟨.illegalInstruction, s.pc, some w, none⟩ s)

/-- 60_exceptions.md section 1 (faults are latched in the state, log 1): every step answers a next state, in every
state. -/
def Obligations.StepAlwaysAnswersNext : Prop := ∀ s : State, ∃ t, step s = .next t

/-- 60_exceptions.md section 2 (the spec's own decisions D8 and D16): fault entry is precise and atomic. A step that
latches a fault changes nothing but the fault record, which is consistent and holds the pc of the instruction. -/
def Obligations.FaultEntryIsAtomic : Prop :=
  ∀ s t : State, step s = .next t → t.fault ≠ s.fault →
    s.Running ∧ ∃ r, t = Latched r s ∧ r.pc = s.pc ∧ r.Consistent

/-- 10_state.md section 10 and 60_exceptions.md section 2 (R74 and R76 are the spec's own decisions D17 and D9, log 23):
`ack_redraw` clears the redraw flag and nothing else, in every state, faulted or not; after a fault, steps do nothing,
`load` and `handle_input` are rejected, and no call changes the fault record. -/
def Obligations.LatchedFaultIsPermanent : Prop :=
  ∀ s : State,
    hostCall .ackRedraw s = .accepted { s with redraw := false } ∧
    (s.fault ≠ none →
      step s = .next s ∧
      (∀ bytes, hostCall (.load bytes) s = .rejected) ∧
      (∀ e, hostCall (.handleInput e) s = .rejected) ∧
      (∀ (c : HostCall) (t : State), hostCall c s = .accepted t → t.fault = s.fault))

/-- R147: the timers at the end of every step that executed a handler without a fault. FX15 and FX18 set theirs first;
no other instruction writes a timer. -/
def Obligations.TimersTickOncePerExecutedStep : Prop :=
  ∀ (s t : State) (i : Instr), s.Running → s.CanFetch → decode s.fetchWord = some i → step s = .next t →
    t.fault = none →
    t.delayT.toNat = (match i with | .ldDTVx x => (s.readV x).toNat | _ => s.delayT.toNat) - 1 ∧
    t.soundT.toNat = (match i with | .ldSTVx x => (s.readV x).toNat | _ => s.soundT.toNat) - 1

/-- 40_step_cycle.md section 2 (R149 is marked derived by the spec): the beep ends in the step that takes sound_t from
1 to 0. -/
def Obligations.BeepEndsAtTheTickFromOne : Prop :=
  ∀ (s t : State) (i : Instr), s.Running → s.CanFetch → decode s.fetchWord = some i → (∀ x, i ≠ .ldSTVx x) →
    step s = .next t → t.fault = none → s.soundT = 1 → s.beep = true ∧ t.beep = false

/-! ### Control transfer -/

/-- R163 and R166: the jumps. The sum of BNNN is exact, and its offset register is always V0. -/
def Obligations.JumpsSetPc : Prop :=
  ∀ (nnn : BitVec 12) (s : State),
    EncodedAs (.jp nnn) 0xF000 0x1000 ∧ EncodedAs (.jpV0 nnn) 0xF000 0xB000 ∧
    (∃ t, exec (.jp nnn) s = .next t ∧ t.pc.toNat = nnn.toNat ∧ ChangesOnlyRegs [] s t) ∧
    (∃ t, exec (.jpV0 nnn) s = .next t ∧ t.pc.toNat = nnn.toNat + (s.readV 0).toNat ∧ ChangesOnlyRegs [] s t)

/-- R164: the call pushes its own address, or faults on a full stack. -/
def Obligations.CallPushesItsAddress : Prop :=
  ∀ (nnn : BitVec 12) (s : State),
    EncodedAs (.call nnn) 0xF000 0x2000 ∧
    (s.sp.val < 16 → ∃ t, exec (.call nnn) s = .next t ∧ t.pc.toNat = nnn.toNat ∧ t.sp.val = s.sp.val + 1 ∧
      (∀ k : Fin 16, t.stack[k] = if k.val = s.sp.val then s.pc else s.stack[k]) ∧ ChangesOnlyStack s t) ∧
    (s.sp.val = 16 → exec (.call nnn) s = .next (Faulted .stackOverflow (.call nnn) none s))

/-- R162: the return resumes two bytes after the popped address, or faults on an empty stack. The popped entry stays in
place. -/
def Obligations.ReturnPopsTheAddress : Prop :=
  ∀ s : State,
    EncodedAs .ret 0xFFFF 0x00EE ∧
    (∀ k : Fin 16, s.sp.val = k.val + 1 → ∃ t, exec .ret s = .next t ∧ t.pc = s.stack[k] + 2 ∧ t.sp.val = k.val ∧
      t.stack = s.stack ∧ ChangesOnlyStack s t) ∧
    (s.sp.val = 0 → exec .ret s = .next (Faulted .stackUnderflow .ret none s))

/-- 41_control_transfer.md section 2 (R165 is marked derived by the spec): a call and, after any code that leaves SP and
the pushed entry as the call left them, the return, resume at the call's address plus 2 with the caller's SP. -/
def Obligations.ReturnResumesAfterTheCall : Prop :=
  ∀ (nnn : BitVec 12) (s t u : State) (k : Fin 16), s.sp.val = k.val → exec (.call nnn) s = .next t → u.sp = t.sp →
    u.stack[k] = t.stack[k] → ∃ v, exec .ret u = .next v ∧ v.pc = s.pc + 2 ∧ v.sp = s.sp

/-! ### Skips -/

/-- R182, R183, R184, R185: the four register and immediate skips. -/
def Obligations.SkipsAdvanceByFourOrTwo : Prop :=
  ∀ (x y : Reg) (nn : Byte) (s : State),
    EncodedAs (.seByte x nn) 0xF000 0x3000 ∧ EncodedAs (.sneByte x nn) 0xF000 0x4000 ∧
    EncodedAs (.seReg x y) 0xF00F 0x5000 ∧ EncodedAs (.sneReg x y) 0xF00F 0x9000 ∧
    (∃ t, exec (.seByte x nn) s = .next t ∧ t.pc = s.pc + (if s.readV x = nn then 4 else 2) ∧
      ChangesOnlyRegs [] s t) ∧
    (∃ t, exec (.sneByte x nn) s = .next t ∧ t.pc = s.pc + (if s.readV x ≠ nn then 4 else 2) ∧
      ChangesOnlyRegs [] s t) ∧
    (∃ t, exec (.seReg x y) s = .next t ∧ t.pc = s.pc + (if s.readV x = s.readV y then 4 else 2) ∧
      ChangesOnlyRegs [] s t) ∧
    (∃ t, exec (.sneReg x y) s = .next t ∧ t.pc = s.pc + (if s.readV x ≠ s.readV y then 4 else 2) ∧
      ChangesOnlyRegs [] s t)

/-- R300 and R302, with R301's fault (the spec's own decision D6, log 14): the key skips. -/
def Obligations.KeySkipsTestTheKeypad : Prop :=
  ∀ (x : Reg) (s : State),
    EncodedAs (.skp x) 0xF0FF 0xE09E ∧ EncodedAs (.sknp x) 0xF0FF 0xE0A1 ∧
    (∀ k : Fin 16, (s.readV x).toNat = k.val →
      (∃ t, exec (.skp x) s = .next t ∧ t.pc = s.pc + (if s.keypad[k] = true then 4 else 2) ∧
        ChangesOnlyRegs [] s t) ∧
      (∃ t, exec (.sknp x) s = .next t ∧ t.pc = s.pc + (if s.keypad[k] = true then 2 else 4) ∧
        ChangesOnlyRegs [] s t)) ∧
    ((s.readV x).toNat > 15 →
      exec (.skp x) s = .next (Faulted .keyIndexOutOfRange (.skp x) none s) ∧
      exec (.sknp x) s = .next (Faulted .keyIndexOutOfRange (.sknp x) none s))

/-! ### The ALU -/

/-- R202, R204, R205, R206, R207: the loads, copies and bitwise instructions write VX and no flag. -/
def Obligations.MovesAndLogicWriteVx : Prop :=
  ∀ (x y : Reg) (nn : Byte) (s : State),
    EncodedAs (.ldByte x nn) 0xF000 0x6000 ∧ EncodedAs (.ldReg x y) 0xF00F 0x8000 ∧
    EncodedAs (.orReg x y) 0xF00F 0x8001 ∧ EncodedAs (.andReg x y) 0xF00F 0x8002 ∧
    EncodedAs (.xorReg x y) 0xF00F 0x8003 ∧
    (∃ t, exec (.ldByte x nn) s = .next t ∧ t.readV x = nn ∧ t.pc = s.pc + 2 ∧ ChangesOnlyRegs [x] s t) ∧
    (∃ t, exec (.ldReg x y) s = .next t ∧ t.readV x = s.readV y ∧ t.pc = s.pc + 2 ∧ ChangesOnlyRegs [x] s t) ∧
    (∃ t, exec (.orReg x y) s = .next t ∧ (∀ b : Fin 8, (t.readV x)[b] = ((s.readV x)[b] || (s.readV y)[b])) ∧
      t.pc = s.pc + 2 ∧ ChangesOnlyRegs [x] s t) ∧
    (∃ t, exec (.andReg x y) s = .next t ∧ (∀ b : Fin 8, (t.readV x)[b] = ((s.readV x)[b] && (s.readV y)[b])) ∧
      t.pc = s.pc + 2 ∧ ChangesOnlyRegs [x] s t) ∧
    (∃ t, exec (.xorReg x y) s = .next t ∧ (∀ b : Fin 8, (t.readV x)[b] = ((s.readV x)[b] != (s.readV y)[b])) ∧
      t.pc = s.pc + 2 ∧ ChangesOnlyRegs [x] s t)

/-- R203: add immediate wraps modulo 256 and writes no flag, VF only as VX. -/
def Obligations.AddImmediateWrapsWithoutFlag : Prop :=
  ∀ (x : Reg) (nn : Byte) (s : State),
    EncodedAs (.addByte x nn) 0xF000 0x7000 ∧
    ∃ t, exec (.addByte x nn) s = .next t ∧ (t.readV x).toNat = ((s.readV x).toNat + nn.toNat) % 256 ∧
      t.pc = s.pc + 2 ∧ ChangesOnlyRegs [x] s t

/-- R208: the sum modulo 256, then the carry in VF, last, so that VF ends as the carry even when X is F. -/
def Obligations.AddSetsCarry : Prop :=
  ∀ (x y : Reg) (s : State),
    EncodedAs (.addReg x y) 0xF00F 0x8004 ∧
    ∃ t, exec (.addReg x y) s = .next t ∧
      (x ≠ Reg.vf → (t.readV x).toNat = ((s.readV x).toNat + (s.readV y).toNat) % 256) ∧
      (t.readV Reg.vf).toNat = (if (s.readV x).toNat + (s.readV y).toNat > 255 then 1 else 0) ∧
      t.pc = s.pc + 2 ∧ ChangesOnlyRegs [x, Reg.vf] s t

/-- R209 and R211: both subtractions modulo 256, then the no-borrow flag in VF, last. -/
def Obligations.SubtractionsSetNoBorrow : Prop :=
  ∀ (x y : Reg) (s : State),
    EncodedAs (.subReg x y) 0xF00F 0x8005 ∧ EncodedAs (.subnReg x y) 0xF00F 0x8007 ∧
    (∃ t, exec (.subReg x y) s = .next t ∧
      (x ≠ Reg.vf → ((t.readV x).toNat : Int) = ((s.readV x).toNat - (s.readV y).toNat : Int) % 256) ∧
      (t.readV Reg.vf).toNat = (if (s.readV x).toNat ≥ (s.readV y).toNat then 1 else 0) ∧
      t.pc = s.pc + 2 ∧ ChangesOnlyRegs [x, Reg.vf] s t) ∧
    (∃ t, exec (.subnReg x y) s = .next t ∧
      (x ≠ Reg.vf → ((t.readV x).toNat : Int) = ((s.readV y).toNat - (s.readV x).toNat : Int) % 256) ∧
      (t.readV Reg.vf).toNat = (if (s.readV y).toNat ≥ (s.readV x).toNat then 1 else 0) ∧
      t.pc = s.pc + 2 ∧ ChangesOnlyRegs [x, Reg.vf] s t)

/-- R210 and R212: both shifts take VX, whatever Y is, and leave the bit shifted out in VF, last. -/
def Obligations.ShiftsSetTheBitShiftedOut : Prop :=
  ∀ (x y : Reg) (s : State),
    EncodedAs (.shr x y) 0xF00F 0x8006 ∧ EncodedAs (.shl x y) 0xF00F 0x800E ∧
    (∃ t, exec (.shr x y) s = .next t ∧ (x ≠ Reg.vf → (t.readV x).toNat = (s.readV x).toNat / 2) ∧
      (t.readV Reg.vf).toNat = (s.readV x).toNat % 2 ∧ t.pc = s.pc + 2 ∧ ChangesOnlyRegs [x, Reg.vf] s t) ∧
    (∃ t, exec (.shl x y) s = .next t ∧ (x ≠ Reg.vf → (t.readV x).toNat = (s.readV x).toNat * 2 % 256) ∧
      (t.readV Reg.vf).toNat = (s.readV x).toNat / 128 ∧ t.pc = s.pc + 2 ∧ ChangesOnlyRegs [x, Reg.vf] s t)

/-- 43_alu.md section 2 (R213): VX is the step's draw under the mask, for every draw the host supplies; bits outside NN
are 0. That the draw is the free value `Config.randomDraw` where the host supplies none is the model's own choice
(log 2). -/
def Obligations.RandomByteUnderMask : Prop :=
  ∀ (x : Reg) (nn : Byte) (s : State),
    EncodedAs (.rnd x nn) 0xF000 0xC000 ∧
    ∃ t, exec (.rnd x nn) s = .next t ∧
      (∀ rand, s.rand = some rand → ∀ b : Fin 8, (t.readV x)[b] = (rand[b] && nn[b])) ∧
      (s.rand = none → ∀ b : Fin 8, (t.readV x)[b] = ((Config.randomDraw s.drawCount)[b] && nn[b])) ∧
      (∀ b : Fin 8, nn[b] = false → (t.readV x)[b] = false) ∧ t.pc = s.pc + 2 ∧ ChangesOnlyRegs [x] s t

/-- 40_step_cycle.md section 1: only CXNN reads the draw. Changing the draw changes nothing that any other instruction
does. -/
def Obligations.OnlyRandomReadsTheDraw : Prop :=
  ∀ (i : Instr) (s t : State) (r : Option Byte), (∀ x nn, i ≠ .rnd x nn) → exec i s = .next t →
    exec i { s with rand := r } = .next { t with rand := r }

/-! ### The index register and memory -/

/-- R243 and R248: the two loads of I. The glyph address is exact for every byte, past the font too. -/
def Obligations.IndexLoads : Prop :=
  ∀ (x : Reg) (nnn : BitVec 12) (s : State),
    EncodedAs (.ldI nnn) 0xF000 0xA000 ∧ EncodedAs (.ldF x) 0xF0FF 0xF029 ∧
    (∃ t, exec (.ldI nnn) s = .next t ∧ t.I.toNat = nnn.toNat ∧ t.pc = s.pc + 2 ∧ ChangesOnlyIndex [] s t) ∧
    (∃ t, exec (.ldF x) s = .next t ∧ t.I.toNat = (s.readV x).toNat * 5 ∧ t.pc = s.pc + 2 ∧
      ChangesOnlyIndex [] s t)

/-- 44_index_memory.md R245; that I wraps modulo 65536 is the spec's own decision D7 (log 15): I, and VF from the exact
sum against 0x0FFF, last. -/
def Obligations.AddIndexSetsOverflowFlag : Prop :=
  ∀ (x : Reg) (s : State),
    EncodedAs (.addI x) 0xF0FF 0xF01E ∧
    ∃ t, exec (.addI x) s = .next t ∧ t.I.toNat = (s.I.toNat + (s.readV x).toNat) % 65536 ∧
      (t.readV Reg.vf).toNat = (if s.I.toNat + (s.readV x).toNat > 0x0FFF then 1 else 0) ∧
      t.pc = s.pc + 2 ∧ ChangesOnlyIndex [Reg.vf] s t

/-- R251: the three decimal digits at I, I+1, I+2, and no other byte; or the bounds fault, and nothing written. -/
def Obligations.BcdStoresThreeDigits : Prop :=
  ∀ (x : Reg) (s : State), s.mem.wf = true →
    EncodedAs (.ldB x) 0xF0FF 0xF033 ∧
    (s.I.toNat + 2 < 4096 → ∃ t, exec (.ldB x) s = .next t ∧
      (t.mem.read s.I.toNat).toNat = (s.readV x).toNat / 100 ∧
      (t.mem.read (s.I.toNat + 1)).toNat = (s.readV x).toNat / 10 % 10 ∧
      (t.mem.read (s.I.toNat + 2)).toNat = (s.readV x).toNat % 10 ∧
      t.pc = s.pc + 2 ∧ ChangesOnlyMemory s.I.toNat 3 s t) ∧
    (s.I.toNat + 2 ≥ 4096 →
      exec (.ldB x) s = .next (Faulted .dataOutOfBounds (.ldB x) (some (max s.I.toNat 4096)) s))

/-- R256: V0..VX at I..I+X, and no other byte; or the bounds fault, and nothing written. -/
def Obligations.StoreRegistersToMemory : Prop :=
  ∀ (x : Reg) (s : State), s.mem.wf = true →
    EncodedAs (.storeRegs x) 0xF0FF 0xF055 ∧
    (s.I.toNat + x.val < 4096 → ∃ t, exec (.storeRegs x) s = .next t ∧
      (∀ k : Reg, k ≤ x → t.mem.read (s.I.toNat + k.val) = s.readV k) ∧
      t.pc = s.pc + 2 ∧ ChangesOnlyMemory s.I.toNat (x.val + 1) s t) ∧
    (s.I.toNat + x.val ≥ 4096 →
      exec (.storeRegs x) s = .next (Faulted .dataOutOfBounds (.storeRegs x) (some (max s.I.toNat 4096)) s))

/-- R259: V0..VX from I..I+X, the other registers unchanged; or the bounds fault, and nothing read. -/
def Obligations.LoadRegistersFromMemory : Prop :=
  ∀ (x : Reg) (s : State),
    EncodedAs (.loadRegs x) 0xF0FF 0xF065 ∧
    (s.I.toNat + x.val < 4096 → ∃ t, exec (.loadRegs x) s = .next t ∧
      (∀ k : Reg, k ≤ x → t.readV k = s.mem.read (s.I.toNat + k.val)) ∧
      t.pc = s.pc + 2 ∧ ChangesOnlyRegs ((List.finRange 16).filter (· ≤ x)) s t) ∧
    (s.I.toNat + x.val ≥ 4096 →
      exec (.loadRegs x) s = .next (Faulted .dataOutOfBounds (.loadRegs x) (some (max s.I.toNat 4096)) s))

/-- 20_memory.md section 3 (R87 rests on the spec's own decision D16): an instruction that faults on bounds has written
nothing, and the address it reports is the lowest out-of-range one it would touch. -/
def Obligations.BoundsFaultReportsLowestAddress : Prop :=
  ∀ (i : Instr) (s t : State), exec i s = .next t → s.fault = none →
    ((∃ r, t.fault = some r ∧ r.cause = .dataOutOfBounds) ↔ ∃ k, k < bytesTouched i ∧ s.I.toNat + k ≥ 4096) ∧
    (∀ r, t.fault = some r → r.cause = .dataOutOfBounds → t = Latched r s ∧ ∃ a, r.addr = some a ∧ a ≥ 4096 ∧
      (∃ k, k < bytesTouched i ∧ a = s.I.toNat + k) ∧
      ∀ k, k < bytesTouched i → s.I.toNat + k ≥ 4096 → a ≤ s.I.toNat + k)

/-- 20_memory.md section 8 (R102 is marked derived by the spec): fetch is coherent with stores. A word stored by FX55 at
the address where the next step fetches is the word that step fetches. -/
def Obligations.StoredCodeIsFetched : Prop :=
  ∀ (x : Reg) (s t : State), s.mem.wf = true → x ≠ 0 → s.I.toNat + x.val < 4096 → s.I = s.pc + 2 →
    exec (.storeRegs x) s = .next t → t.fetchWord.toNat = (s.readV 0).toNat * 256 + (s.readV 1).toNat

/-! ### The display -/

/-- R270: every cell off, and the redraw flag raised. -/
def Obligations.ClearTurnsEveryCellOff : Prop :=
  ∀ s : State, EncodedAs .cls 0xFFFF 0x00E0 ∧
    ∃ t, exec .cls s = .next t ∧ (∀ k, t.fb.cell k = false) ∧ t.redraw = true ∧ t.pc = s.pc + 2 ∧
      ChangesOnlyDisplay [] s t

/-- R272 (with R274's bit order, log 12, and R275's table under every edge policy): a draw toggles exactly the cells its
sprite's pixels land on, sets VF iff one of them was on, raises the redraw flag, and changes nothing else. -/
def Obligations.DrawXorsTheSprite : Prop :=
  ∀ (x y : Reg) (n : BitVec 4) (s : State),
    EncodedAs (.drw x y n) 0xF000 0xD000 ∧
    ((n = 0 ∨ s.I.toNat + n.toNat ≤ 4096) → ¬SpriteFaults s x y n →
      ∃ t, exec (.drw x y n) s = .next t ∧
        (∀ k, SpriteHits s x y n k → t.fb.cell k = !s.fb.cell k) ∧
        (∀ k, ¬SpriteHits s x y n k → t.fb.cell k = s.fb.cell k) ∧
        ((∃ k, SpriteHits s x y n k ∧ s.fb.cell k = true) → t.readV Reg.vf = 1) ∧
        ((∀ k, SpriteHits s x y n k → s.fb.cell k = false) → t.readV Reg.vf = 0) ∧
        t.redraw = true ∧ t.pc = s.pc + 2 ∧ ChangesOnlyDisplay [Reg.vf] s t)

/-- 45_display.md section 1 and 60_exceptions.md section 3 (the spec's own decisions D3 and D15): the faults of a draw,
the sprite's bytes first, then its pixels; neither changes a cell. -/
def Obligations.DrawFaultsBeforeDrawing : Prop :=
  ∀ (x y : Reg) (n : BitVec 4) (s : State),
    (n ≠ 0 → s.I.toNat + n.toNat > 4096 →
      exec (.drw x y n) s = .next (Faulted .dataOutOfBounds (.drw x y n) (some (max s.I.toNat 4096)) s)) ∧
    ((n = 0 ∨ s.I.toNat + n.toNat ≤ 4096) → SpriteFaults s x y n →
      exec (.drw x y n) s = .next (Faulted .drawOutOfRange (.drw x y n) none s)) ∧
    (s.edgePolicy = .wrap ∨ s.edgePolicy = .clip → ¬SpriteFaults s x y n)

/-- 45_display.md section 2 (R276 is marked derived by the spec): the target cells of one draw are distinct, under every
policy. -/
def Obligations.DrawTargetsAreDistinct : Prop :=
  ∀ (x y : Reg) (n : BitVec 4) (s : State) (ts : List (Fin 2048)),
    collectTargets s.edgePolicy (s.drawPixels x y n) = some ts → ts.Nodup

/-- 45_display.md section 2 (R277 is marked derived by the spec): drawing twice restores the screen, unless the first
draw's VF write changes a coordinate; the second draw's VF is 1 iff some target cell was off before the first. -/
def Obligations.DrawingTwiceRestoresTheScreen : Prop :=
  ∀ (x y : Reg) (n : BitVec 4) (s t : State), x ≠ Reg.vf → y ≠ Reg.vf → s.fault = none →
    exec (.drw x y n) s = .next t → t.fault = none →
    ∃ u, exec (.drw x y n) t = .next u ∧ u.fault = none ∧ (∀ k, u.fb.cell k = s.fb.cell k) ∧
      (u.readV Reg.vf = 1 ↔ ∃ k, SpriteHits s x y n k ∧ s.fb.cell k = false)

/-! ### Timers, keys and the host -/

/-- R304, R312, R314: the three timer instructions, in their handler and at the end of their step. -/
def Obligations.TimerInstructions : Prop :=
  ∀ (x : Reg) (s : State),
    EncodedAs (.ldVxDT x) 0xF0FF 0xF007 ∧ EncodedAs (.ldDTVx x) 0xF0FF 0xF015 ∧
    EncodedAs (.ldSTVx x) 0xF0FF 0xF018 ∧
    (∃ t, exec (.ldVxDT x) s = .next t ∧ t.readV x = s.delayT ∧ t.pc = s.pc + 2 ∧ ChangesOnlyRegs [x] s t) ∧
    (∃ t, exec (.ldDTVx x) s = .next t ∧ t.delayT = s.readV x ∧ t.soundT = s.soundT ∧ t.pc = s.pc + 2 ∧
      ChangesOnlyTimers s t) ∧
    (∃ t, exec (.ldSTVx x) s = .next t ∧ t.soundT = s.readV x ∧ t.delayT = s.delayT ∧ t.pc = s.pc + 2 ∧
      ChangesOnlyTimers s t) ∧
    (s.Running → s.CanFetch → s.fetchWord = encode (.ldVxDT x) → ∃ t, step s = .next t ∧ t.readV x = s.delayT ∧
      t.delayT.toNat = s.delayT.toNat - 1) ∧
    (s.Running → s.CanFetch → s.fetchWord = encode (.ldDTVx x) → ∃ t, step s = .next t ∧
      t.delayT.toNat = (s.readV x).toNat - 1) ∧
    (s.Running → s.CanFetch → s.fetchWord = encode (.ldSTVx x) → ∃ t, step s = .next t ∧
      t.soundT.toNat = (s.readV x).toNat - 1)

/-- 46_timers_keypad.md section 3 (R310 rests on the spec's own decisions D4 and D5, log 13): the handler of FX0A. -/
def Obligations.KeyWaitStopsTheCore : Prop :=
  ∀ (x : Reg) (s : State),
    EncodedAs (.ldVxK x) 0xF0FF 0xF00A ∧
    ∃ t, exec (.ldVxK x) s = .next t ∧ t.stopped = true ∧ t.waitX = x ∧ t.pc = s.pc + 2 ∧ t.keypad = s.keypad ∧
      SameRegsBut [] s t ∧ t.I = s.I ∧ SameMemory s t ∧ SameStack s t ∧ SameTimers s t ∧ SameDisplay s t ∧
      SameRecord s t

/-- 46_timers_keypad.md section 3 (R320 is marked derived by the spec): while the core waits, nothing changes, however
many steps the host asks for. -/
def Obligations.KeyWaitHoldsForever : Prop :=
  ∀ (s : State) (k : Nat), s.stopped = true → core.run k s = .next s

/-- 46_timers_keypad.md section 3 (R319): the core begins to wait only by a step of FX0A, and goes on only by a Down
event; while it waits, every step is a no-op. That the step of FX0A loads its X into the latch wait_x is the spec's own
decision D4 (log 13). -/
def Obligations.KeyWaitTransitions : Prop :=
  ∀ (s t : State) (c : HostCall), hostCall c s = .accepted t →
    (s.stopped = false → t.stopped = true →
      s.CanFetch ∧ ∃ rand x, c = .step rand ∧ decode s.fetchWord = some (.ldVxK x) ∧ t.waitX = x) ∧
    (s.stopped = true → t.stopped = false → ∃ k, k < 16 ∧ c = .handleInput (.down k)) ∧
    (s.stopped = true → step s = .next s)

/-- 46_timers_keypad.md section 4 (R316 and R318 rest on the spec's own decisions D4, D20 and D27, log 13): a Down
event sets its key, and ends a wait by storing the index in the waiting register; an index above 15 is rejected. -/
def Obligations.KeyDownEndsTheWait : Prop :=
  ∀ (s : State) (k : Nat), s.fault = none →
    (k < 16 → ∃ t, handleInput (.down k) s = .accepted t ∧
      (∀ j : Fin 16, t.keypad[j] = if j.val = k then true else s.keypad[j]) ∧ t.stopped = false ∧
      (s.stopped = true → (t.readV s.waitX).toNat = k ∧ SameRegsBut [s.waitX] s t) ∧
      (s.stopped = false → SameRegsBut [] s t) ∧
      t.pc = s.pc ∧ t.I = s.I ∧ t.waitX = s.waitX ∧ SameMemory s t ∧ SameStack s t ∧ SameTimers s t ∧
      SameDisplay s t ∧ SameRecord s t) ∧
    (16 ≤ k → handleInput (.down k) s = .rejected)

/-- 46_timers_keypad.md section 4 (R317; R318 is the spec's own decision D20, log 23): an Up event clears its key and
does nothing else, so it never ends a wait; an index above 15 is rejected. -/
def Obligations.KeyUpClearsItsKey : Prop :=
  ∀ (s : State) (k : Nat), s.fault = none →
    (k < 16 → ∃ t, handleInput (.up k) s = .accepted t ∧
      (∀ j : Fin 16, t.keypad[j] = if j.val = k then false else s.keypad[j]) ∧ t.stopped = s.stopped ∧
      t = { s with keypad := t.keypad }) ∧
    (16 ≤ k → handleInput (.up k) s = .rejected)

/-- R95: `load` copies the image to 0x200 and changes nothing else, or is rejected when it is too long (after a fault it
is rejected too: LatchedFaultIsPermanent). -/
def Obligations.LoadCopiesTheImage : Prop :=
  ∀ (bytes : List Byte) (s : State), s.mem.wf = true → s.fault = none →
    (bytes.length ≤ 3584 → ∃ t, load bytes s = .accepted t ∧
      (∀ (k : Nat) (h : k < bytes.length), t.mem.read (0x200 + k) = bytes[k]) ∧
      SameMemoryOutside 0x200 bytes.length s t ∧ t = { s with mem := t.mem }) ∧
    (3584 < bytes.length → load bytes s = .rejected)

/-! ### Who writes what -/

/-- 10_state.md section 1: no instruction writes a V register but those its rule names. -/
def Obligations.RegisterWriters : Prop :=
  ∀ (i : Instr) (s t : State), exec i s = .next t → ∀ r, r ∉ mayWrite i → t.readV r = s.readV r

/-- 10_state.md sections 2, 4 and 7 and 44_index_memory.md section 1: I is written by ANNN, FX1E and FX29 alone, SP and
the stack by 2NNN and 00EE alone, and the keypad by no instruction. -/
def Obligations.IndexStackAndKeypadWriters : Prop :=
  ∀ (i : Instr) (s t : State), exec i s = .next t →
    ((∀ nnn, i ≠ .ldI nnn) → (∀ x, i ≠ .addI x) → (∀ x, i ≠ .ldF x) → t.I = s.I) ∧
    ((∀ nnn, i ≠ .call nnn) → i ≠ .ret → SameStack s t) ∧ t.keypad = s.keypad

/-- 20_memory.md section 5 and 10_state.md section 6: memory is written by FX33 and FX55 alone, the framebuffer by 00E0
and DXYN alone, and no instruction clears the redraw flag. -/
def Obligations.MemoryAndDisplayWriters : Prop :=
  ∀ (i : Instr) (s t : State), exec i s = .next t →
    ((∀ x, i ≠ .ldB x) → (∀ x, i ≠ .storeRegs x) → SameMemory s t) ∧
    (i ≠ .cls → (∀ x y n, i ≠ .drw x y n) → SameDisplay s t) ∧
    (s.redraw = true → t.redraw = true)

/-! ### Reset and the invariant -/

/-- R35, R39 and R42: after reset every V register and I are 0 and pc is 0x200. -/
def Obligations.ResetRegisters : Prop :=
  (∀ r, State.reset.readV r = 0) ∧ State.reset.I = 0 ∧ State.reset.pc = 0x200

/-- 70_reset_and_hazards.md section 1: every element of the spec's reset state that ResetRegisters leaves out. The values
of the first ten are the spec's own decision D10 (log 6), the default edge policy its D3 (log 4), and the default font
bytes are PRESUMED (log 5). The model's own rand and drawCount (log 3) are not claimed. -/
def Obligations.ResetDefaults : Prop :=
  State.reset.sp = 0 ∧ (∀ k : Fin 16, State.reset.stack[k] = 0) ∧ State.reset.delayT = 0 ∧ State.reset.soundT = 0 ∧
  (∀ k, State.reset.fb.cell k = false) ∧ (∀ k : Fin 16, State.reset.keypad[k] = false) ∧
  State.reset.stopped = false ∧ State.reset.waitX = 0 ∧ State.reset.redraw = false ∧ State.reset.fault = none ∧
  (∀ a : Fin 80, State.reset.mem.read a.val = Config.default.font[a]) ∧
  (∀ a, 0x050 ≤ a → a ≤ 0xFFF → State.reset.mem.read a = 0x00) ∧
  State.reset.edgePolicy = .wrap

/-- 10_state.md section 9, for every value of the parameters (the standard font itself is PRESUMED, log 5, and is not
claimed): a constructed core holds its FONT, glyph g at 5*g, zeroes elsewhere, and its edge policy. -/
def Obligations.ConstructionInstallsTheFont : Prop :=
  ∀ c : Config,
    (∀ (g : Fin 16) (k : Fin 5), (State.construct c).mem.read (5 * g.val + k.val) = c.font[5 * g.val + k.val]) ∧
    (∀ a, 80 ≤ a → (State.construct c).mem.read a = 0) ∧
    (State.construct c).edgePolicy = c.edgePolicy ∧
    State.construct c = { State.reset with mem := (State.construct c).mem, edgePolicy := c.edgePolicy }

/-- 70_reset_and_hazards.md section 2 (R391 is marked derived by the spec): without a load, the first step faults on the
word 0x0000 at 0x200. -/
def Obligations.UnloadedCoreFaultsAtOnce : Prop :=
  step State.reset = .next (Latched ⟨.illegalInstruction, 0x200, some 0x0000, none⟩ State.reset)

/-- 10_state.md section 9 and log 8: equal memories are equal data. Two memories in canonical form that read the same
everywhere are the same list. -/
def Obligations.CanonicalMemoriesAreEqual : Prop :=
  ∀ m m' : Memory, m.wf = true → m'.wf = true → (∀ a, m.read a = m'.read a) → m = m'

/-- The invariant of `State.Inv` holds after reset. -/
def Obligations.ResetMeetsTheInvariant : Prop := State.reset.Inv

/-- 10_state.md section 3 (R43 is marked derived by the spec), 41_control_transfer.md section 2, log 8: every step keeps
the invariant, from every state that meets it. -/
def Obligations.StepKeepsTheInvariant : Prop := ∀ s t : State, s.Inv → step s = .next t → t.Inv

/-- 70_reset_and_hazards.md section 1 and 10_state.md section 10: a core constructed with any parameters meets the
invariant, and every accepted call of the host (`step(rand)`, `load`, `handle_input`, `ack_redraw`) keeps it, from every
state that meets it. -/
def Obligations.HostCallsKeepTheInvariant : Prop :=
  (∀ c : Config, (State.construct c).Inv) ∧
  ∀ (c : HostCall) (s t : State), s.Inv → hostCall c s = .accepted t → t.Inv

/-- 10_state.md section 3 (R43 is marked derived by the spec): from every state that meets the invariant, a step that
executes without a fault leaves the exact sum in pc, never a wrapped one: pc + 2 or pc + 4, the popped address plus 2,
or NNN + V0. -/
def Obligations.PcSumsNeverWrap : Prop :=
  ∀ (s t : State) (i : Instr), s.Inv → s.Running → s.CanFetch → decode s.fetchWord = some i → step s = .next t →
    t.fault = none →
    t.pc.toNat ≤ 0x10FE ∧
    ((∀ nnn, i ≠ .jp nnn) → (∀ nnn, i ≠ .call nnn) → (∀ nnn, i ≠ .jpV0 nnn) → i ≠ .ret →
      t.pc.toNat = s.pc.toNat + 2 ∨ t.pc.toNat = s.pc.toNat + 4) ∧
    (i = .ret → ∃ k : Fin 16, s.sp.val = k.val + 1 ∧ t.pc.toNat = s.stack[k].toNat + 2) ∧
    (∀ nnn, i = .jpV0 nnn → t.pc.toNat = nnn.toNat + (s.readV 0).toNat) ∧
    (∀ nnn, i = .jp nnn ∨ i = .call nnn → t.pc.toNat = nnn.toNat)

/-- 70_reset_and_hazards.md section 2 and 10_state.md section 10: every state that a host can bring a core to, with any
parameters and any calls, meets the invariant. -/
def Obligations.ReachableStatesMeetTheInvariant : Prop := ∀ s : State, Reachable s → s.Inv
end

