-- ==== Sys2Proof/Laws/Decode.lean ====
section
/-! SUPPORT. The fields of an encoded word, the word of its fields, and the masks of the encoders. -/

namespace Sys2Proof

@[simp] theorem regBits_toFin (b : BitVec 4) : regBits b.toFin = b := rfl
@[simp] theorem toFin_regBits (x : Reg) : (regBits x).toFin = x := rfl

section NNN
variable (op : BitVec 4) (nnn : BitVec 12)

@[simp] theorem opField_encNNN : opField (encNNN op nnn) = op := BitVec.extractLsb'_append_eq_left

@[simp] theorem nnnField_encNNN : nnnField (encNNN op nnn) = nnn := BitVec.extractLsb'_append_eq_right

theorem encNNN_and_mask : encNNN op nnn &&& 0xF000 = op ++ 0#12 := by
  unfold encNNN
  ext i hi
  rw [BitVec.getElem_and, BitVec.getElem_append, BitVec.getElem_append]
  interval_cases i <;> simp

end NNN

section XNN
variable (op : BitVec 4) (x : Reg) (nn : Byte)

@[simp] theorem opField_encXNN : opField (encXNN op x nn) = op := BitVec.extractLsb'_append_eq_left

@[simp] theorem xField_encXNN : xField (encXNN op x nn) = x := by
  have h : (encXNN op x nn).extractLsb' 8 4 = regBits x := by
    unfold encXNN
    ext i hi
    rw [BitVec.getElem_extractLsb', BitVec.getLsbD_append, BitVec.getLsbD_append]
    interval_cases i <;> simp
  simp [xField, h]

@[simp] theorem nnField_encXNN : nnField (encXNN op x nn) = nn := by
  unfold nnField encXNN
  ext i hi
  rw [BitVec.getElem_extractLsb', BitVec.getLsbD_append, BitVec.getLsbD_append]
  interval_cases i <;> simp

theorem encXNN_and_mask : encXNN op x nn &&& 0xF000 = op ++ 0#12 := encNNN_and_mask op (regBits x ++ nn)

theorem encXNN_and_maskXFF : encXNN op x nn &&& 0xF0FF = op ++ (0#4 ++ nn) := by
  unfold encXNN
  refine BitVec.eq_of_getLsbD_eq fun i hi => ?_
  simp only [BitVec.getLsbD_and, BitVec.getLsbD_append]
  interval_cases i <;> simp

end XNN

section XYN
variable (op : BitVec 4) (x y : Reg) (n : BitVec 4)

@[simp] theorem opField_encXYN : opField (encXYN op x y n) = op := BitVec.extractLsb'_append_eq_left

@[simp] theorem xField_encXYN : xField (encXYN op x y n) = x := xField_encXNN op x (regBits y ++ n)

@[simp] theorem yField_encXYN : yField (encXYN op x y n) = y := by
  have h : (encXYN op x y n).extractLsb' 4 4 = regBits y := by
    unfold encXYN
    ext i hi
    rw [BitVec.getElem_extractLsb', BitVec.getLsbD_append, BitVec.getLsbD_append, BitVec.getLsbD_append]
    interval_cases i <;> simp
  simp [yField, h]

@[simp] theorem nField_encXYN : nField (encXYN op x y n) = n := by
  unfold nField encXYN
  ext i hi
  rw [BitVec.getElem_extractLsb', BitVec.getLsbD_append, BitVec.getLsbD_append, BitVec.getLsbD_append]
  interval_cases i <;> simp

theorem encXYN_and_mask : encXYN op x y n &&& 0xF000 = op ++ 0#12 := encNNN_and_mask op (regBits x ++ (regBits y ++ n))

theorem encXYN_and_maskXYF : encXYN op x y n &&& 0xF00F = op ++ (0#8 ++ n) := by
  unfold encXYN
  refine BitVec.eq_of_getLsbD_eq fun i hi => ?_
  simp only [BitVec.getLsbD_and, BitVec.getLsbD_append]
  interval_cases i <;> simp

end XYN

/-- A word is the concatenation of its op nibble and its 12-bit field. -/
theorem encNNN_fields (w : Word) : encNNN (opField w) (nnnField w) = w := by
  unfold encNNN opField nnnField
  refine BitVec.eq_of_getLsbD_eq fun i hi => ?_
  simp only [BitVec.getLsbD_append, BitVec.getLsbD_extractLsb']
  interval_cases i <;> simp

/-- A word is the concatenation of its op nibble, its X and its low byte. -/
theorem encXNN_fields (w : Word) : encXNN (opField w) (xField w) (nnField w) = w := by
  unfold encXNN opField xField nnField
  refine BitVec.eq_of_getLsbD_eq fun i hi => ?_
  simp only [regBits_toFin, BitVec.getLsbD_append, BitVec.getLsbD_extractLsb']
  interval_cases i <;> simp

/-- A word is the concatenation of its four nibbles. -/
theorem encXYN_fields (w : Word) : encXYN (opField w) (xField w) (yField w) (nField w) = w := by
  unfold encXYN opField xField yField nField
  refine BitVec.eq_of_getLsbD_eq fun i hi => ?_
  simp only [regBits_toFin, BitVec.getLsbD_append, BitVec.getLsbD_extractLsb']
  interval_cases i <;> simp

/-! ### The fields as numbers, and the masks as fields -/

theorem xField_val (w : Word) : (xField w).val = w.toNat / 256 % 16 := by
  simp [xField, Nat.shiftRight_eq_div_pow]

theorem yField_val (w : Word) : (yField w).val = w.toNat / 16 % 16 := by
  simp [yField, Nat.shiftRight_eq_div_pow]

theorem nField_toNat (w : Word) : (nField w).toNat = w.toNat % 16 := by
  simp [nField, BitVec.extractLsb'_toNat]

theorem nnField_toNat (w : Word) : (nnField w).toNat = w.toNat % 256 := by
  simp [nnField, BitVec.extractLsb'_toNat]

theorem nnnField_toNat (w : Word) : (nnnField w).toNat = w.toNat % 4096 := by
  simp [nnnField, BitVec.extractLsb'_toNat]

/-- The mask 0xF000 keeps the op nibble. -/
theorem and_maskOp {w : Word} {op : BitVec 4} : w &&& 0xF000 = op ++ 0#12 ↔ opField w = op := by
  conv_lhs => rw [← encNNN_fields w, encNNN_and_mask]
  constructor
  · intro h
    simpa only [BitVec.extractLsb'_append_eq_left] using congrArg (fun v : BitVec (4 + 12) => v.extractLsb' 12 4) h
  · rintro rfl
    rfl

/-- The mask 0xF00F keeps the op nibble and N. -/
theorem and_maskXYF {w : Word} {op n : BitVec 4} :
    w &&& 0xF00F = op ++ (0#8 ++ n) ↔ opField w = op ∧ nField w = n := by
  conv_lhs => rw [← encXYN_fields w, encXYN_and_maskXYF]
  constructor
  · intro h
    have h1 : opField w ++ (0#8 ++ nField w) = op ++ (0#8 ++ n) := h
    have h2 := congrArg (fun v : BitVec (4 + (8 + 4)) => v.extractLsb' 12 4) h1
    have h3 := congrArg (fun v : BitVec (4 + (8 + 4)) => (v.extractLsb' 0 (8 + 4)).extractLsb' 0 4) h1
    simp only [BitVec.extractLsb'_append_eq_left, BitVec.extractLsb'_append_eq_right] at h2 h3
    exact ⟨h2, h3⟩
  · rintro ⟨rfl, rfl⟩
    rfl

/-- The mask 0xF0FF keeps the op nibble and NN. -/
theorem and_maskXFF {w : Word} {op : BitVec 4} {nn : Byte} :
    w &&& 0xF0FF = op ++ (0#4 ++ nn) ↔ opField w = op ∧ nnField w = nn := by
  conv_lhs => rw [← encXNN_fields w, encXNN_and_maskXFF]
  constructor
  · intro h
    have h1 : opField w ++ (0#4 ++ nnField w) = op ++ (0#4 ++ nn) := h
    have h2 := congrArg (fun v : BitVec (4 + (4 + 8)) => v.extractLsb' 12 4) h1
    have h3 := congrArg (fun v : BitVec (4 + (4 + 8)) => (v.extractLsb' 0 (4 + 8)).extractLsb' 0 8) h1
    simp only [BitVec.extractLsb'_append_eq_left, BitVec.extractLsb'_append_eq_right] at h2 h3
    exact ⟨h2, h3⟩
  · rintro ⟨rfl, rfl⟩
    rfl

/-- The word the table numbers as `w` is `w` when it fits. -/
theorem tableWord_toNat (w : Word) : tableWord 16 w.toNat = w := by
  unfold tableWord
  rw [Nat.mod_eq_of_lt w.isLt, BitVec.ofNat_toNat, BitVec.setWidth_eq]

/-- The bytes of a word, read big-endian, are the word. -/
theorem wordOfBytes_bytesOfWord (w : Word) : wordOfBytes (w.extractLsb' 8 8) (w.extractLsb' 0 8) = w := by
  unfold wordOfBytes
  refine BitVec.eq_of_getLsbD_eq fun i hi => ?_
  simp only [BitVec.getLsbD_append, BitVec.getLsbD_extractLsb']
  interval_cases i <;> simp

/-- The value of a word is 256 times its first byte and its second byte (R82). -/
theorem wordOfBytes_toNat (hi lo : Byte) : (wordOfBytes hi lo).toNat = hi.toNat * 256 + lo.toNat := by
  unfold wordOfBytes
  rw [BitVec.toNat_append, ← Nat.shiftLeft_add_eq_or_of_lt lo.isLt, Nat.shiftLeft_eq]

/-- `decodeTableWord` is `decode` of the word the table numbers. -/
theorem decodeTableWord_eq (nbits w : Nat) : decodeTableWord nbits w = decode (tableWord nbits w) := by
  unfold decodeTableWord bytesOfWord
  simp only [decodeBytes, wordOfBytes_bytesOfWord]
  cases decode (tableWord nbits w) <;> rfl

end Sys2Proof
end

