-- ==== Sys2Proof/Laws/Memory.lean ====
section
/-! SUPPORT. The laws of memory: the canonical form is kept by every operation, a read after a write, and the bytes a
multi-byte read or write touches. -/

namespace Sys2Proof.Machine

/-! ### The canonical form -/

theorem Memory.wfFrom_nil (lo : Nat) : Memory.wfFrom lo [] = true := rfl

theorem Memory.wfFrom_cons {lo k : Nat} {b : Byte} {m : Memory} :
    Memory.wfFrom lo ((k, b) :: m) = true ↔
      lo ≤ k ∧ k < Config.memSize ∧ b ≠ Memory.unlisted k ∧ Memory.wfFrom (k + 1) m = true := by
  simp [Memory.wfFrom, and_assoc]

/-- A canonical tail is canonical from any lower address. -/
theorem Memory.wfFrom_mono {lo lo' : Nat} {m : Memory} (h : Memory.wfFrom lo m = true) (hle : lo' ≤ lo) :
    Memory.wfFrom lo' m = true := by
  cases m with
  | nil => rfl
  | cons c m =>
    obtain ⟨h1, h2⟩ := Memory.wfFrom_cons.mp h
    exact Memory.wfFrom_cons.mpr ⟨hle.trans h1, h2⟩

/-- Below its first address a canonical memory reads as unlisted. -/
theorem Memory.read_of_lt {lo : Nat} {m : Memory} (h : Memory.wfFrom lo m = true) {a : Nat} (ha : a < lo) :
    m.read a = Memory.unlisted a := by
  induction m generalizing lo with
  | nil => rfl
  | cons c m ih =>
    obtain ⟨h1, -, -, h2⟩ := Memory.wfFrom_cons.mp h
    rw [Memory.read, if_neg (by omega)]
    exact ih h2 (by omega)

theorem Memory.write_wfFrom {lo a : Nat} {m : Memory} (b : Byte) (h : Memory.wfFrom lo m = true) (hlo : lo ≤ a)
    (ha : a < Config.memSize) : Memory.wfFrom lo (m.write a b) = true := by
  induction m generalizing lo with
  | nil =>
    rw [Memory.write]
    split
    · rfl
    · exact Memory.wfFrom_cons.mpr ⟨hlo, ha, ‹_›, rfl⟩
  | cons c m ih =>
    obtain ⟨k, c⟩ := c
    obtain ⟨h1, hk, hc, h2⟩ := Memory.wfFrom_cons.mp h
    rw [Memory.write]
    split
    · split
      · exact h
      · exact Memory.wfFrom_cons.mpr ⟨hlo, ha, ‹_›, Memory.wfFrom_cons.mpr ⟨by omega, hk, hc, h2⟩⟩
    · split
      · subst a
        split
        · exact Memory.wfFrom_mono h2 (by omega)
        · exact Memory.wfFrom_cons.mpr ⟨hlo, ha, ‹_›, h2⟩
      · exact Memory.wfFrom_cons.mpr ⟨h1, hk, hc, ih h2 (by omega)⟩

/-- A write to an address that exists keeps the canonical form. -/
theorem Memory.write_wf {a : Nat} {m : Memory} (b : Byte) (h : m.wf = true) (ha : a < Config.memSize) :
    (m.write a b).wf = true :=
  Memory.write_wfFrom b h (Nat.zero_le a) ha

/-- A write of several bytes to addresses that exist keeps the canonical form. -/
theorem Memory.writeBytes_wf {a : Nat} {m : Memory} (bs : List Byte) (h : m.wf = true)
    (ha : a + bs.length ≤ Config.memSize) : (m.writeBytes a bs).wf = true := by
  induction bs generalizing a m with
  | nil => exact h
  | cons b bs ih =>
    simp only [List.length_cons] at ha
    exact ih (Memory.write_wf b h (by omega)) (by omega)

/-! ### Read after write -/

theorem Memory.read_write_from {lo a : Nat} {m : Memory} (b : Byte) (h : Memory.wfFrom lo m = true) (c : Nat) :
    (m.write a b).read c = if c = a then b else m.read c := by
  induction m generalizing lo with
  | nil =>
    rw [Memory.write]
    split
    · split <;> simp_all [Memory.read]
    · simp [Memory.read]
  | cons e m ih =>
    obtain ⟨k, e⟩ := e
    obtain ⟨h1, hk, he, h2⟩ := Memory.wfFrom_cons.mp h
    have hbelow : ∀ a, a < k + 1 → Memory.read m a = Memory.unlisted a := fun a => Memory.read_of_lt h2
    rw [Memory.write]
    split
    · split
      · by_cases hc : c = a
        · subst c
          rw [Memory.read, if_neg (by omega), hbelow a (by omega), if_pos rfl]
          exact Eq.symm ‹_›
        · rw [if_neg hc]
      · simp [Memory.read]
    · split
      · subst a
        split
        · by_cases hc : c = k
          · subst c
            rw [hbelow k (by omega), if_pos rfl]
            exact Eq.symm ‹_›
          · simp [Memory.read, hc]
        · by_cases hc : c = k <;> simp [Memory.read, hc]
      · rw [Memory.read, Memory.read, ih h2]
        by_cases hc : c = k
        · rw [if_pos hc, if_neg (by omega), if_pos hc]
        · rw [if_neg hc, if_neg hc]

/-- One byte written: its address reads as it, every other address as before. -/
theorem Memory.read_write {m : Memory} (h : m.wf = true) (a : Nat) (b : Byte) (c : Nat) :
    (m.write a b).read c = if c = a then b else m.read c :=
  Memory.read_write_from b h c

/-- Several bytes written to addresses that exist: the k-th address reads as the k-th byte, every other address as
before. -/
theorem Memory.read_writeBytes {m : Memory} (h : m.wf = true) {a : Nat} {bs : List Byte}
    (ha : a + bs.length ≤ Config.memSize) (c : Nat) :
    (m.writeBytes a bs).read c = if a ≤ c then bs.getD (c - a) (m.read c) else m.read c := by
  induction bs generalizing a m with
  | nil => simp [Memory.writeBytes]
  | cons b bs ih =>
    simp only [List.length_cons] at ha
    rw [Memory.writeBytes, ih (Memory.write_wf b h (by omega)) (by omega), Memory.read_write h]
    by_cases hc : c = a
    · subst c
      simp
    · by_cases hlt : a ≤ c
      · have e : c - a = (c - (a + 1)) + 1 := by omega
        rw [if_pos (by omega), if_pos hlt, if_neg hc, e, List.getD_cons_succ]
      · rw [if_neg (by omega), if_neg hc, if_neg hlt]

/-- The bytes of a multi-byte read. -/
theorem Memory.readBytes_eq (m : Memory) (a n : Nat) : m.readBytes a n = (List.range n).map fun k => m.read (a + k) := by
  induction n generalizing a with
  | zero => rfl
  | succ n ih =>
    rw [Memory.readBytes, ih, List.range_succ_eq_map]
    simp [Function.comp_def, Nat.add_assoc, Nat.add_comm 1]

@[simp] theorem Memory.readBytes_length (m : Memory) (a n : Nat) : (m.readBytes a n).length = n := by
  simp [Memory.readBytes_eq]

/-! ### The access controller -/

/-- The access controller admits an access exactly when it touches no address at or above MEM_SIZE (R85). -/
theorem firstOutOfRange_eq_none {a n : Nat} : firstOutOfRange a n = none ↔ n = 0 ∨ a + n ≤ Config.memSize := by
  unfold firstOutOfRange
  split <;> simp_all

/-- What the access controller reports when it refuses (R242). -/
theorem firstOutOfRange_eq_some {a n c : Nat} :
    firstOutOfRange a n = some c ↔ ¬(n = 0 ∨ a + n ≤ Config.memSize) ∧ c = max a Config.memSize := by
  unfold firstOutOfRange
  split <;> simp_all [eq_comm]

end Sys2Proof.Machine
end

