-- ==== Sys2Proof/Laws/State.lean ====
section
/-! SUPPORT. One lemma per field per named update of the state, true by rfl, so that no proof unfolds a record update. -/

namespace Sys2Proof.Machine

variable (s : State)

section
variable (r : Reg) (b : Byte)
@[simp] theorem writeV_v : (s.writeV r b).v = s.v.set r.val b r.isLt := rfl
@[simp] theorem writeV_I : (s.writeV r b).I = s.I := rfl
@[simp] theorem writeV_pc : (s.writeV r b).pc = s.pc := rfl
@[simp] theorem writeV_stack : (s.writeV r b).stack = s.stack := rfl
@[simp] theorem writeV_sp : (s.writeV r b).sp = s.sp := rfl
@[simp] theorem writeV_delayT : (s.writeV r b).delayT = s.delayT := rfl
@[simp] theorem writeV_soundT : (s.writeV r b).soundT = s.soundT := rfl
@[simp] theorem writeV_fb : (s.writeV r b).fb = s.fb := rfl
@[simp] theorem writeV_keypad : (s.writeV r b).keypad = s.keypad := rfl
@[simp] theorem writeV_stopped : (s.writeV r b).stopped = s.stopped := rfl
@[simp] theorem writeV_waitX : (s.writeV r b).waitX = s.waitX := rfl
@[simp] theorem writeV_redraw : (s.writeV r b).redraw = s.redraw := rfl
@[simp] theorem writeV_fault : (s.writeV r b).fault = s.fault := rfl
@[simp] theorem writeV_mem : (s.writeV r b).mem = s.mem := rfl
@[simp] theorem writeV_edgePolicy : (s.writeV r b).edgePolicy = s.edgePolicy := rfl
@[simp] theorem writeV_rand : (s.writeV r b).rand = s.rand := rfl
@[simp] theorem writeV_drawCount : (s.writeV r b).drawCount = s.drawCount := rfl
@[simp] theorem writeV_keyDown (q : Reg) : (s.writeV r b).keyDown q = s.keyDown q := rfl
end

section
variable (b : Bool)
@[simp] theorem setFlag_v : (s.setFlag b).v = s.v.set 15 (flagByte b) := rfl
@[simp] theorem setFlag_I : (s.setFlag b).I = s.I := rfl
@[simp] theorem setFlag_pc : (s.setFlag b).pc = s.pc := rfl
@[simp] theorem setFlag_stack : (s.setFlag b).stack = s.stack := rfl
@[simp] theorem setFlag_sp : (s.setFlag b).sp = s.sp := rfl
@[simp] theorem setFlag_delayT : (s.setFlag b).delayT = s.delayT := rfl
@[simp] theorem setFlag_soundT : (s.setFlag b).soundT = s.soundT := rfl
@[simp] theorem setFlag_fb : (s.setFlag b).fb = s.fb := rfl
@[simp] theorem setFlag_keypad : (s.setFlag b).keypad = s.keypad := rfl
@[simp] theorem setFlag_stopped : (s.setFlag b).stopped = s.stopped := rfl
@[simp] theorem setFlag_waitX : (s.setFlag b).waitX = s.waitX := rfl
@[simp] theorem setFlag_redraw : (s.setFlag b).redraw = s.redraw := rfl
@[simp] theorem setFlag_fault : (s.setFlag b).fault = s.fault := rfl
@[simp] theorem setFlag_mem : (s.setFlag b).mem = s.mem := rfl
@[simp] theorem setFlag_edgePolicy : (s.setFlag b).edgePolicy = s.edgePolicy := rfl
@[simp] theorem setFlag_rand : (s.setFlag b).rand = s.rand := rfl
@[simp] theorem setFlag_drawCount : (s.setFlag b).drawCount = s.drawCount := rfl
@[simp] theorem setFlag_keyDown (q : Reg) : (s.setFlag b).keyDown q = s.keyDown q := rfl
end

section
variable (a : Word)
@[simp] theorem setI_v : (s.setI a).v = s.v := rfl
@[simp] theorem setI_I : (s.setI a).I = a := rfl
@[simp] theorem setI_pc : (s.setI a).pc = s.pc := rfl
@[simp] theorem setI_stack : (s.setI a).stack = s.stack := rfl
@[simp] theorem setI_sp : (s.setI a).sp = s.sp := rfl
@[simp] theorem setI_delayT : (s.setI a).delayT = s.delayT := rfl
@[simp] theorem setI_soundT : (s.setI a).soundT = s.soundT := rfl
@[simp] theorem setI_fb : (s.setI a).fb = s.fb := rfl
@[simp] theorem setI_keypad : (s.setI a).keypad = s.keypad := rfl
@[simp] theorem setI_stopped : (s.setI a).stopped = s.stopped := rfl
@[simp] theorem setI_waitX : (s.setI a).waitX = s.waitX := rfl
@[simp] theorem setI_redraw : (s.setI a).redraw = s.redraw := rfl
@[simp] theorem setI_fault : (s.setI a).fault = s.fault := rfl
@[simp] theorem setI_mem : (s.setI a).mem = s.mem := rfl
@[simp] theorem setI_edgePolicy : (s.setI a).edgePolicy = s.edgePolicy := rfl
@[simp] theorem setI_rand : (s.setI a).rand = s.rand := rfl
@[simp] theorem setI_drawCount : (s.setI a).drawCount = s.drawCount := rfl
@[simp] theorem setI_readV (q : Reg) : (s.setI a).readV q = s.readV q := rfl
@[simp] theorem setI_keyDown (q : Reg) : (s.setI a).keyDown q = s.keyDown q := rfl
end

section
variable (a : Word)
@[simp] theorem setPc_v : (s.setPc a).v = s.v := rfl
@[simp] theorem setPc_I : (s.setPc a).I = s.I := rfl
@[simp] theorem setPc_pc : (s.setPc a).pc = a := rfl
@[simp] theorem setPc_stack : (s.setPc a).stack = s.stack := rfl
@[simp] theorem setPc_sp : (s.setPc a).sp = s.sp := rfl
@[simp] theorem setPc_delayT : (s.setPc a).delayT = s.delayT := rfl
@[simp] theorem setPc_soundT : (s.setPc a).soundT = s.soundT := rfl
@[simp] theorem setPc_fb : (s.setPc a).fb = s.fb := rfl
@[simp] theorem setPc_keypad : (s.setPc a).keypad = s.keypad := rfl
@[simp] theorem setPc_stopped : (s.setPc a).stopped = s.stopped := rfl
@[simp] theorem setPc_waitX : (s.setPc a).waitX = s.waitX := rfl
@[simp] theorem setPc_redraw : (s.setPc a).redraw = s.redraw := rfl
@[simp] theorem setPc_fault : (s.setPc a).fault = s.fault := rfl
@[simp] theorem setPc_mem : (s.setPc a).mem = s.mem := rfl
@[simp] theorem setPc_edgePolicy : (s.setPc a).edgePolicy = s.edgePolicy := rfl
@[simp] theorem setPc_rand : (s.setPc a).rand = s.rand := rfl
@[simp] theorem setPc_drawCount : (s.setPc a).drawCount = s.drawCount := rfl
@[simp] theorem setPc_readV (q : Reg) : (s.setPc a).readV q = s.readV q := rfl
@[simp] theorem setPc_keyDown (q : Reg) : (s.setPc a).keyDown q = s.keyDown q := rfl
end

section
variable (k : Nat)
@[simp] theorem advance_v : (s.advance k).v = s.v := rfl
@[simp] theorem advance_I : (s.advance k).I = s.I := rfl
@[simp] theorem advance_pc : (s.advance k).pc = s.pc + BitVec.ofNat 16 k := rfl
@[simp] theorem advance_stack : (s.advance k).stack = s.stack := rfl
@[simp] theorem advance_sp : (s.advance k).sp = s.sp := rfl
@[simp] theorem advance_delayT : (s.advance k).delayT = s.delayT := rfl
@[simp] theorem advance_soundT : (s.advance k).soundT = s.soundT := rfl
@[simp] theorem advance_fb : (s.advance k).fb = s.fb := rfl
@[simp] theorem advance_keypad : (s.advance k).keypad = s.keypad := rfl
@[simp] theorem advance_stopped : (s.advance k).stopped = s.stopped := rfl
@[simp] theorem advance_waitX : (s.advance k).waitX = s.waitX := rfl
@[simp] theorem advance_redraw : (s.advance k).redraw = s.redraw := rfl
@[simp] theorem advance_fault : (s.advance k).fault = s.fault := rfl
@[simp] theorem advance_mem : (s.advance k).mem = s.mem := rfl
@[simp] theorem advance_edgePolicy : (s.advance k).edgePolicy = s.edgePolicy := rfl
@[simp] theorem advance_rand : (s.advance k).rand = s.rand := rfl
@[simp] theorem advance_drawCount : (s.advance k).drawCount = s.drawCount := rfl
@[simp] theorem advance_readV (q : Reg) : (s.advance k).readV q = s.readV q := rfl
@[simp] theorem advance_keyDown (q : Reg) : (s.advance k).keyDown q = s.keyDown q := rfl
end

section
variable (m : Memory)
@[simp] theorem setMem_v : (s.setMem m).v = s.v := rfl
@[simp] theorem setMem_I : (s.setMem m).I = s.I := rfl
@[simp] theorem setMem_pc : (s.setMem m).pc = s.pc := rfl
@[simp] theorem setMem_stack : (s.setMem m).stack = s.stack := rfl
@[simp] theorem setMem_sp : (s.setMem m).sp = s.sp := rfl
@[simp] theorem setMem_delayT : (s.setMem m).delayT = s.delayT := rfl
@[simp] theorem setMem_soundT : (s.setMem m).soundT = s.soundT := rfl
@[simp] theorem setMem_fb : (s.setMem m).fb = s.fb := rfl
@[simp] theorem setMem_keypad : (s.setMem m).keypad = s.keypad := rfl
@[simp] theorem setMem_stopped : (s.setMem m).stopped = s.stopped := rfl
@[simp] theorem setMem_waitX : (s.setMem m).waitX = s.waitX := rfl
@[simp] theorem setMem_redraw : (s.setMem m).redraw = s.redraw := rfl
@[simp] theorem setMem_fault : (s.setMem m).fault = s.fault := rfl
@[simp] theorem setMem_mem : (s.setMem m).mem = m := rfl
@[simp] theorem setMem_edgePolicy : (s.setMem m).edgePolicy = s.edgePolicy := rfl
@[simp] theorem setMem_rand : (s.setMem m).rand = s.rand := rfl
@[simp] theorem setMem_drawCount : (s.setMem m).drawCount = s.drawCount := rfl
@[simp] theorem setMem_readV (q : Reg) : (s.setMem m).readV q = s.readV q := rfl
@[simp] theorem setMem_keyDown (q : Reg) : (s.setMem m).keyDown q = s.keyDown q := rfl
end

section
variable (bs : List Byte)
@[simp] theorem storeAtI_v : (s.storeAtI bs).v = s.v := rfl
@[simp] theorem storeAtI_I : (s.storeAtI bs).I = s.I := rfl
@[simp] theorem storeAtI_pc : (s.storeAtI bs).pc = s.pc := rfl
@[simp] theorem storeAtI_stack : (s.storeAtI bs).stack = s.stack := rfl
@[simp] theorem storeAtI_sp : (s.storeAtI bs).sp = s.sp := rfl
@[simp] theorem storeAtI_delayT : (s.storeAtI bs).delayT = s.delayT := rfl
@[simp] theorem storeAtI_soundT : (s.storeAtI bs).soundT = s.soundT := rfl
@[simp] theorem storeAtI_fb : (s.storeAtI bs).fb = s.fb := rfl
@[simp] theorem storeAtI_keypad : (s.storeAtI bs).keypad = s.keypad := rfl
@[simp] theorem storeAtI_stopped : (s.storeAtI bs).stopped = s.stopped := rfl
@[simp] theorem storeAtI_waitX : (s.storeAtI bs).waitX = s.waitX := rfl
@[simp] theorem storeAtI_redraw : (s.storeAtI bs).redraw = s.redraw := rfl
@[simp] theorem storeAtI_fault : (s.storeAtI bs).fault = s.fault := rfl
@[simp] theorem storeAtI_mem : (s.storeAtI bs).mem = s.mem.writeBytes s.I.toNat bs := rfl
@[simp] theorem storeAtI_edgePolicy : (s.storeAtI bs).edgePolicy = s.edgePolicy := rfl
@[simp] theorem storeAtI_rand : (s.storeAtI bs).rand = s.rand := rfl
@[simp] theorem storeAtI_drawCount : (s.storeAtI bs).drawCount = s.drawCount := rfl
@[simp] theorem storeAtI_readV (q : Reg) : (s.storeAtI bs).readV q = s.readV q := rfl
@[simp] theorem storeAtI_keyDown (q : Reg) : (s.storeAtI bs).keyDown q = s.keyDown q := rfl
end

section
variable (x : Reg)
@[simp] theorem loadRange_I : (s.loadRange x).I = s.I := rfl
@[simp] theorem loadRange_pc : (s.loadRange x).pc = s.pc := rfl
@[simp] theorem loadRange_stack : (s.loadRange x).stack = s.stack := rfl
@[simp] theorem loadRange_sp : (s.loadRange x).sp = s.sp := rfl
@[simp] theorem loadRange_delayT : (s.loadRange x).delayT = s.delayT := rfl
@[simp] theorem loadRange_soundT : (s.loadRange x).soundT = s.soundT := rfl
@[simp] theorem loadRange_fb : (s.loadRange x).fb = s.fb := rfl
@[simp] theorem loadRange_keypad : (s.loadRange x).keypad = s.keypad := rfl
@[simp] theorem loadRange_stopped : (s.loadRange x).stopped = s.stopped := rfl
@[simp] theorem loadRange_waitX : (s.loadRange x).waitX = s.waitX := rfl
@[simp] theorem loadRange_redraw : (s.loadRange x).redraw = s.redraw := rfl
@[simp] theorem loadRange_fault : (s.loadRange x).fault = s.fault := rfl
@[simp] theorem loadRange_mem : (s.loadRange x).mem = s.mem := rfl
@[simp] theorem loadRange_edgePolicy : (s.loadRange x).edgePolicy = s.edgePolicy := rfl
@[simp] theorem loadRange_rand : (s.loadRange x).rand = s.rand := rfl
@[simp] theorem loadRange_drawCount : (s.loadRange x).drawCount = s.drawCount := rfl
@[simp] theorem loadRange_keyDown (q : Reg) : (s.loadRange x).keyDown q = s.keyDown q := rfl
end

section
variable (f : Framebuffer)
@[simp] theorem setFrame_v : (s.setFrame f).v = s.v := rfl
@[simp] theorem setFrame_I : (s.setFrame f).I = s.I := rfl
@[simp] theorem setFrame_pc : (s.setFrame f).pc = s.pc := rfl
@[simp] theorem setFrame_stack : (s.setFrame f).stack = s.stack := rfl
@[simp] theorem setFrame_sp : (s.setFrame f).sp = s.sp := rfl
@[simp] theorem setFrame_delayT : (s.setFrame f).delayT = s.delayT := rfl
@[simp] theorem setFrame_soundT : (s.setFrame f).soundT = s.soundT := rfl
@[simp] theorem setFrame_fb : (s.setFrame f).fb = f := rfl
@[simp] theorem setFrame_keypad : (s.setFrame f).keypad = s.keypad := rfl
@[simp] theorem setFrame_stopped : (s.setFrame f).stopped = s.stopped := rfl
@[simp] theorem setFrame_waitX : (s.setFrame f).waitX = s.waitX := rfl
@[simp] theorem setFrame_redraw : (s.setFrame f).redraw = true := rfl
@[simp] theorem setFrame_fault : (s.setFrame f).fault = s.fault := rfl
@[simp] theorem setFrame_mem : (s.setFrame f).mem = s.mem := rfl
@[simp] theorem setFrame_edgePolicy : (s.setFrame f).edgePolicy = s.edgePolicy := rfl
@[simp] theorem setFrame_rand : (s.setFrame f).rand = s.rand := rfl
@[simp] theorem setFrame_drawCount : (s.setFrame f).drawCount = s.drawCount := rfl
@[simp] theorem setFrame_readV (q : Reg) : (s.setFrame f).readV q = s.readV q := rfl
@[simp] theorem setFrame_keyDown (q : Reg) : (s.setFrame f).keyDown q = s.keyDown q := rfl
end

section
variable (k : Reg) (b : Bool)
@[simp] theorem setKey_v : (s.setKey k b).v = s.v := rfl
@[simp] theorem setKey_I : (s.setKey k b).I = s.I := rfl
@[simp] theorem setKey_pc : (s.setKey k b).pc = s.pc := rfl
@[simp] theorem setKey_stack : (s.setKey k b).stack = s.stack := rfl
@[simp] theorem setKey_sp : (s.setKey k b).sp = s.sp := rfl
@[simp] theorem setKey_delayT : (s.setKey k b).delayT = s.delayT := rfl
@[simp] theorem setKey_soundT : (s.setKey k b).soundT = s.soundT := rfl
@[simp] theorem setKey_fb : (s.setKey k b).fb = s.fb := rfl
@[simp] theorem setKey_keypad : (s.setKey k b).keypad = s.keypad.set k.val b k.isLt := rfl
@[simp] theorem setKey_stopped : (s.setKey k b).stopped = s.stopped := rfl
@[simp] theorem setKey_waitX : (s.setKey k b).waitX = s.waitX := rfl
@[simp] theorem setKey_redraw : (s.setKey k b).redraw = s.redraw := rfl
@[simp] theorem setKey_fault : (s.setKey k b).fault = s.fault := rfl
@[simp] theorem setKey_mem : (s.setKey k b).mem = s.mem := rfl
@[simp] theorem setKey_edgePolicy : (s.setKey k b).edgePolicy = s.edgePolicy := rfl
@[simp] theorem setKey_rand : (s.setKey k b).rand = s.rand := rfl
@[simp] theorem setKey_drawCount : (s.setKey k b).drawCount = s.drawCount := rfl
@[simp] theorem setKey_readV (q : Reg) : (s.setKey k b).readV q = s.readV q := rfl
end

section
variable (r : FaultRecord)
@[simp] theorem latch_v : (s.latch r).v = s.v := rfl
@[simp] theorem latch_I : (s.latch r).I = s.I := rfl
@[simp] theorem latch_pc : (s.latch r).pc = s.pc := rfl
@[simp] theorem latch_stack : (s.latch r).stack = s.stack := rfl
@[simp] theorem latch_sp : (s.latch r).sp = s.sp := rfl
@[simp] theorem latch_delayT : (s.latch r).delayT = s.delayT := rfl
@[simp] theorem latch_soundT : (s.latch r).soundT = s.soundT := rfl
@[simp] theorem latch_fb : (s.latch r).fb = s.fb := rfl
@[simp] theorem latch_keypad : (s.latch r).keypad = s.keypad := rfl
@[simp] theorem latch_stopped : (s.latch r).stopped = s.stopped := rfl
@[simp] theorem latch_waitX : (s.latch r).waitX = s.waitX := rfl
@[simp] theorem latch_redraw : (s.latch r).redraw = s.redraw := rfl
@[simp] theorem latch_fault : (s.latch r).fault = some r := rfl
@[simp] theorem latch_mem : (s.latch r).mem = s.mem := rfl
@[simp] theorem latch_edgePolicy : (s.latch r).edgePolicy = s.edgePolicy := rfl
@[simp] theorem latch_rand : (s.latch r).rand = s.rand := rfl
@[simp] theorem latch_drawCount : (s.latch r).drawCount = s.drawCount := rfl
@[simp] theorem latch_readV (q : Reg) : (s.latch r).readV q = s.readV q := rfl
@[simp] theorem latch_keyDown (q : Reg) : (s.latch r).keyDown q = s.keyDown q := rfl
end

section
@[simp] theorem timerTick_v : (s.timerTick).v = s.v := rfl
@[simp] theorem timerTick_I : (s.timerTick).I = s.I := rfl
@[simp] theorem timerTick_pc : (s.timerTick).pc = s.pc := rfl
@[simp] theorem timerTick_stack : (s.timerTick).stack = s.stack := rfl
@[simp] theorem timerTick_sp : (s.timerTick).sp = s.sp := rfl
@[simp] theorem timerTick_delayT : (s.timerTick).delayT = countDown s.delayT := rfl
@[simp] theorem timerTick_soundT : (s.timerTick).soundT = countDown s.soundT := rfl
@[simp] theorem timerTick_fb : (s.timerTick).fb = s.fb := rfl
@[simp] theorem timerTick_keypad : (s.timerTick).keypad = s.keypad := rfl
@[simp] theorem timerTick_stopped : (s.timerTick).stopped = s.stopped := rfl
@[simp] theorem timerTick_waitX : (s.timerTick).waitX = s.waitX := rfl
@[simp] theorem timerTick_redraw : (s.timerTick).redraw = s.redraw := rfl
@[simp] theorem timerTick_fault : (s.timerTick).fault = s.fault := rfl
@[simp] theorem timerTick_mem : (s.timerTick).mem = s.mem := rfl
@[simp] theorem timerTick_edgePolicy : (s.timerTick).edgePolicy = s.edgePolicy := rfl
@[simp] theorem timerTick_rand : (s.timerTick).rand = s.rand := rfl
@[simp] theorem timerTick_drawCount : (s.timerTick).drawCount = s.drawCount := rfl
@[simp] theorem timerTick_readV (q : Reg) : (s.timerTick).readV q = s.readV q := rfl
@[simp] theorem timerTick_keyDown (q : Reg) : (s.timerTick).keyDown q = s.keyDown q := rfl
end

section
@[simp] theorem retireDraw_v : (s.retireDraw).v = s.v := rfl
@[simp] theorem retireDraw_I : (s.retireDraw).I = s.I := rfl
@[simp] theorem retireDraw_pc : (s.retireDraw).pc = s.pc := rfl
@[simp] theorem retireDraw_stack : (s.retireDraw).stack = s.stack := rfl
@[simp] theorem retireDraw_sp : (s.retireDraw).sp = s.sp := rfl
@[simp] theorem retireDraw_delayT : (s.retireDraw).delayT = s.delayT := rfl
@[simp] theorem retireDraw_soundT : (s.retireDraw).soundT = s.soundT := rfl
@[simp] theorem retireDraw_fb : (s.retireDraw).fb = s.fb := rfl
@[simp] theorem retireDraw_keypad : (s.retireDraw).keypad = s.keypad := rfl
@[simp] theorem retireDraw_stopped : (s.retireDraw).stopped = s.stopped := rfl
@[simp] theorem retireDraw_waitX : (s.retireDraw).waitX = s.waitX := rfl
@[simp] theorem retireDraw_redraw : (s.retireDraw).redraw = s.redraw := rfl
@[simp] theorem retireDraw_fault : (s.retireDraw).fault = s.fault := rfl
@[simp] theorem retireDraw_mem : (s.retireDraw).mem = s.mem := rfl
@[simp] theorem retireDraw_edgePolicy : (s.retireDraw).edgePolicy = s.edgePolicy := rfl
@[simp] theorem retireDraw_rand : (s.retireDraw).rand = none := rfl
@[simp] theorem retireDraw_drawCount : (s.retireDraw).drawCount = s.drawCount + 1 := rfl
@[simp] theorem retireDraw_readV (q : Reg) : (s.retireDraw).readV q = s.readV q := rfl
@[simp] theorem retireDraw_keyDown (q : Reg) : (s.retireDraw).keyDown q = s.keyDown q := rfl
end

section
@[simp] theorem finishStep_v : (s.finishStep).v = s.v := rfl
@[simp] theorem finishStep_I : (s.finishStep).I = s.I := rfl
@[simp] theorem finishStep_pc : (s.finishStep).pc = s.pc := rfl
@[simp] theorem finishStep_stack : (s.finishStep).stack = s.stack := rfl
@[simp] theorem finishStep_sp : (s.finishStep).sp = s.sp := rfl
@[simp] theorem finishStep_delayT : (s.finishStep).delayT = countDown s.delayT := rfl
@[simp] theorem finishStep_soundT : (s.finishStep).soundT = countDown s.soundT := rfl
@[simp] theorem finishStep_fb : (s.finishStep).fb = s.fb := rfl
@[simp] theorem finishStep_keypad : (s.finishStep).keypad = s.keypad := rfl
@[simp] theorem finishStep_stopped : (s.finishStep).stopped = s.stopped := rfl
@[simp] theorem finishStep_waitX : (s.finishStep).waitX = s.waitX := rfl
@[simp] theorem finishStep_redraw : (s.finishStep).redraw = s.redraw := rfl
@[simp] theorem finishStep_fault : (s.finishStep).fault = s.fault := rfl
@[simp] theorem finishStep_mem : (s.finishStep).mem = s.mem := rfl
@[simp] theorem finishStep_edgePolicy : (s.finishStep).edgePolicy = s.edgePolicy := rfl
@[simp] theorem finishStep_rand : (s.finishStep).rand = none := rfl
@[simp] theorem finishStep_drawCount : (s.finishStep).drawCount = s.drawCount + 1 := rfl
@[simp] theorem finishStep_readV (q : Reg) : (s.finishStep).readV q = s.readV q := rfl
@[simp] theorem finishStep_keyDown (q : Reg) : (s.finishStep).keyDown q = s.keyDown q := rfl
end

section
variable (r : Option Byte)
@[simp] theorem setRand_v : (s.setRand r).v = s.v := rfl
@[simp] theorem setRand_I : (s.setRand r).I = s.I := rfl
@[simp] theorem setRand_pc : (s.setRand r).pc = s.pc := rfl
@[simp] theorem setRand_stack : (s.setRand r).stack = s.stack := rfl
@[simp] theorem setRand_sp : (s.setRand r).sp = s.sp := rfl
@[simp] theorem setRand_delayT : (s.setRand r).delayT = s.delayT := rfl
@[simp] theorem setRand_soundT : (s.setRand r).soundT = s.soundT := rfl
@[simp] theorem setRand_fb : (s.setRand r).fb = s.fb := rfl
@[simp] theorem setRand_keypad : (s.setRand r).keypad = s.keypad := rfl
@[simp] theorem setRand_stopped : (s.setRand r).stopped = s.stopped := rfl
@[simp] theorem setRand_waitX : (s.setRand r).waitX = s.waitX := rfl
@[simp] theorem setRand_redraw : (s.setRand r).redraw = s.redraw := rfl
@[simp] theorem setRand_fault : (s.setRand r).fault = s.fault := rfl
@[simp] theorem setRand_mem : (s.setRand r).mem = s.mem := rfl
@[simp] theorem setRand_edgePolicy : (s.setRand r).edgePolicy = s.edgePolicy := rfl
@[simp] theorem setRand_rand : (s.setRand r).rand = r := rfl
@[simp] theorem setRand_drawCount : (s.setRand r).drawCount = s.drawCount := rfl
@[simp] theorem setRand_readV (q : Reg) : (s.setRand r).readV q = s.readV q := rfl
@[simp] theorem setRand_keyDown (q : Reg) : (s.setRand r).keyDown q = s.keyDown q := rfl
end

/-- Reading a register after writing one (10_state.md R30). -/
theorem readV_writeV (r q : Reg) (b : Byte) : (s.writeV r b).readV q = if q = r then b else s.readV q := by
  simp only [State.readV, State.writeV, Vector.getElem_set, Fin.ext_iff, eq_comm]

@[simp] theorem readV_writeV_self (r : Reg) (b : Byte) : (s.writeV r b).readV r = b := by simp [readV_writeV]

theorem readV_writeV_ne {r q : Reg} (b : Byte) (h : q ≠ r) : (s.writeV r b).readV q = s.readV q := by
  simp [readV_writeV, h]

/-- Reading a register after the flag write: VF is the flag, every other register is as before (R33). -/
theorem readV_setFlag (q : Reg) (b : Bool) : (s.setFlag b).readV q = if q = Reg.vf then flagByte b else s.readV q :=
  readV_writeV s Reg.vf q (flagByte b)

/-- Reading a register after FX65's load (R259). -/
theorem readV_loadRange (x q : Reg) :
    (s.loadRange x).readV q = if q ≤ x then s.mem.read (s.I.toNat + q.val) else s.readV q := by
  simp [State.readV, State.loadRange]

/-- Reading a key after a key event (46_timers_keypad.md R316, R317). -/
theorem keyDown_setKey (k q : Reg) (b : Bool) : (s.setKey k b).keyDown q = if q = k then b else s.keyDown q := by
  simp only [State.keyDown, State.setKey, Vector.getElem_set, Fin.ext_iff, eq_comm]

end Sys2Proof.Machine
end

