-- ==== Sys2Proof/Laws/Ops.lean ====
section
/-! SUPPORT. One spec lemma for each shared operation: the access controller, the stack, the timers, the operand forms
and the fault entry. -/

namespace Sys2Proof.Machine

/-! ### The fault entry -/

@[simp] theorem raise_eq (c : Fault) (w : Option Word) (a : Option Nat) (s : State) :
    raise c w a s = .next (s.latch ⟨c, s.pc, w, a⟩) := rfl

@[simp] theorem raiseOf_eq (c : Fault) (i : Instr) (a : Option Nat) (s : State) :
    raiseOf c i a s = .next (s.latch ⟨c, s.pc, some (encode i), a⟩) := rfl

/-! ### The access controller -/

theorem dataFault_eq_none {s : State} {n : Nat} : s.dataFault n = none ↔ s.DataInBounds n := firstOutOfRange_eq_none

theorem dataFault_eq_some {s : State} {n a : Nat} :
    s.dataFault n = some a ↔ ¬s.DataInBounds n ∧ a = max s.I.toNat Config.memSize := firstOutOfRange_eq_some

theorem fetchFault_eq_none {s : State} : s.fetchFault = none ↔ s.CanFetch := by
  rw [State.fetchFault, firstOutOfRange_eq_none, State.CanFetch]
  simp only [Config.insnBytes, Config.memSize]
  omega

/-- The first address a fetch would touch out of range: pc itself when it is out of range, else pc + 1 (R142). -/
theorem fetchFault_eq_some {s : State} {a : Nat} :
    s.fetchFault = some a ↔ ¬s.CanFetch ∧ a = if s.pc.toNat ≥ Config.memSize then s.pc.toNat else s.pc.toNat + 1 := by
  rw [State.fetchFault, firstOutOfRange_eq_some, State.CanFetch]
  simp only [Config.insnBytes, Config.memSize]
  split <;> omega

/-! ### The stack (10_state.md R46) -/

theorem push_eq_none {s : State} {a : Word} : s.push a = none ↔ s.sp.val = 16 := by
  have hlt := s.sp.isLt
  unfold State.push
  split
  · rename_i h
    simp only [Config.stackDepth] at h
    simp only [reduceCtorEq, false_iff]
    omega
  · rename_i h
    simp only [Config.stackDepth] at h
    simp only [true_iff]
    omega

theorem push_eq_some {s t : State} {a : Word} :
    s.push a = some t ↔ ∃ h : s.sp.val < 16,
      t = { s with stack := s.stack.set s.sp.val a h, sp := ⟨s.sp.val + 1, by omega⟩ } := by
  unfold State.push
  split <;> simp_all [eq_comm]

theorem pop_eq_none {s : State} : s.pop = none ↔ s.sp.val = 0 := by
  unfold State.pop
  split <;> simp_all

theorem pop_eq_some {s t : State} {a : Word} :
    s.pop = some (a, t) ↔ ∃ k : Fin 16, s.sp.val = k.val + 1 ∧ a = s.stack[k] ∧
      t = { s with sp := ⟨k.val, by omega⟩ } := by
  have hlt := s.sp.isLt
  unfold State.pop
  split
  · simp only [reduceCtorEq, false_iff, not_exists, not_and]
    omega
  · simp only [Option.some.injEq, Prod.mk.injEq]
    constructor
    · rintro ⟨rfl, rfl⟩
      exact ⟨⟨s.sp.val - 1, by omega⟩, by simp only; omega, rfl, rfl⟩
    · rintro ⟨k, hk, rfl, rfl⟩
      have e : s.sp.val - 1 = k.val := by omega
      exact ⟨by simp [e], by simp [e]⟩

/-! ### The timers (40_step_cycle.md R147) -/

@[simp] theorem countDown_toNat (t : Byte) : (countDown t).toNat = t.toNat - 1 := by
  unfold countDown
  split
  · simp_all
  · bv_omega

/-! ### Flags and operands -/

@[simp] theorem flagByte_true : flagByte true = 1 := rfl
@[simp] theorem flagByte_false : flagByte false = 0 := rfl

theorem flagByte_decide (p : Prop) [Decidable p] : flagByte (decide p) = if p then 1 else 0 := by
  simp [flagByte]

@[simp] theorem zext16_toNat (nnn : BitVec 12) : (zext16 nnn).toNat = nnn.toNat := by
  unfold zext16
  rw [BitVec.toNat_setWidth, Nat.mod_eq_of_lt (by omega)]

theorem glyphAddress_toNat (b : Byte) : (glyphAddress b).toNat = b.toNat * 5 := by
  unfold glyphAddress
  simp only [Config.fontBase, Config.glyphBytes, BitVec.toNat_ofNat]
  omega

theorem keyIndex_eq_some {b : Byte} {k : Reg} : keyIndex b = some k ↔ b.toNat = k.val := by
  unfold keyIndex
  split
  · simp only [Option.some.injEq, Fin.ext_iff]
  · rename_i h
    simp only [Config.numKeys] at h
    simp only [reduceCtorEq, false_iff]
    omega

theorem keyIndex_eq_none {b : Byte} : keyIndex b = none ↔ b.toNat > 15 := by
  unfold keyIndex
  split
  · rename_i h
    simp only [Config.numKeys] at h
    simp only [reduceCtorEq, false_iff]
    omega
  · rename_i h
    simp only [Config.numKeys] at h
    simp only [true_iff]
    omega

@[simp] theorem bcdDigits_length (b : Byte) : (bcdDigits b).length = 3 := rfl

@[simp] theorem regRange_length (s : State) (x : Reg) : (s.regRange x).length = x.val + 1 := by
  simp [State.regRange, rangeSize]

theorem regRange_getD (s : State) (x : Reg) {k : Nat} (hk : k ≤ x.val) (d : Byte) :
    (s.regRange x).getD k d = s.readV ⟨k, by omega⟩ := by
  have h : k < (s.regRange x).length := by rw [regRange_length]; omega
  rw [List.getD_eq_getElem _ _ h]
  simp [State.regRange, State.readV]

/-! ### The fetch (20_memory.md R82) -/

theorem fetchWord_toNat (s : State) :
    s.fetchWord.toNat = (s.mem.read s.pc.toNat).toNat * 256 + (s.mem.read (s.pc.toNat + 1)).toNat :=
  wordOfBytes_toNat _ _

/-- The word placed at pc is the word fetched there. -/
theorem fetchWord_placeWord {s : State} (hm : s.mem.wf = true) (hf : s.CanFetch) (w : Word) :
    (s.placeWord w).fetchWord = w := by
  have h : s.pc.toNat + (bytesOfWord w).length ≤ Config.memSize := by
    simp only [bytesOfWord, List.length_cons, List.length_nil]
    unfold State.CanFetch at hf
    omega
  unfold State.fetchWord State.placeWord
  simp only [setMem_mem, setMem_pc, Memory.read_writeBytes hm h]
  simp [bytesOfWord, wordOfBytes_bytesOfWord]

end Sys2Proof.Machine
end

