-- ==== Sys2Proof/Laws/Display.lean ====
section
/-! SUPPORT. The laws of the framebuffer and of DXYN's parts (45_display.md). -/

namespace Sys2Proof.Machine

/-- Toggling a cell changes that cell and no other. -/
theorem cell_toggle (fb : Framebuffer) (t k : Fin 2048) : (fb.toggle t).cell k = (fb.cell k ^^ decide (k = t)) := by
  unfold Framebuffer.toggle Framebuffer.cell
  simp only [Vector.getElem_set]
  by_cases hrow : t.val / 64 = k.val / 64
  · simp only [hrow, if_true, BitVec.getLsbD_xor, BitVec.getLsbD_twoPow]
    congr 1
    rw [Bool.eq_iff_iff]
    simp only [Bool.and_eq_true, decide_eq_true_eq, Fin.ext_iff]
    omega
  · have hne : k ≠ t := fun h => hrow (by rw [h])
    simp [hrow, hne]

@[simp] theorem cell_clear (k : Fin 2048) : Framebuffer.clear.cell k = false := by
  simp [Framebuffer.cell, Framebuffer.clear]

/-- The frame after distinct cells are toggled. -/
theorem xorCells_cell {ts : List (Fin 2048)} (h : ts.Nodup) (fb : Framebuffer) (k : Fin 2048) :
    (xorCells fb ts).1.cell k = (fb.cell k ^^ decide (k ∈ ts)) := by
  induction ts generalizing fb with
  | nil => simp [xorCells]
  | cons t ts ih =>
    obtain ⟨hnot, hnd⟩ := List.nodup_cons.mp h
    simp only [xorCells]
    rw [ih hnd, cell_toggle, Bool.xor_assoc]
    congr 1
    by_cases hk : k = t
    · subst hk
      simp [hnot]
    · simp [hk]

/-- A draw over distinct cells collides exactly when one of them was on (R276). -/
theorem xorCells_collide {ts : List (Fin 2048)} (h : ts.Nodup) (fb : Framebuffer) :
    (xorCells fb ts).2 = true ↔ ∃ t ∈ ts, fb.cell t = true := by
  induction ts generalizing fb with
  | nil => simp [xorCells]
  | cons t ts ih =>
    obtain ⟨hnot, hnd⟩ := List.nodup_cons.mp h
    simp only [xorCells, Bool.or_eq_true, ih hnd, List.mem_cons, exists_eq_or_imp]
    refine or_congr_right (exists_congr fun u => and_congr_right fun hu => ?_)
    have hne : u ≠ t := fun e => hnot (e ▸ hu)
    simp [cell_toggle, hne]

/-- The pixels of a row: its 1-bits, bit 7 leftmost (R274). -/
theorem mem_rowPixels {x0 y : Nat} {b : Byte} {p : Nat × Nat} :
    p ∈ rowPixels x0 y b ↔ ∃ c < 8, b.getLsbD (7 - c) = true ∧ p = (x0 + c, y) := by
  simp only [rowPixels, List.mem_map, List.mem_filter, List.mem_range, and_assoc]
  exact exists_congr fun c => and_congr_right fun _ => and_congr_right fun _ => eq_comm

/-- The pixels of a sprite (R273). -/
theorem mem_spritePixels {x0 y0 : Nat} {rows : List Byte} {p : Nat × Nat} :
    p ∈ spritePixels x0 y0 rows ↔
      ∃ r, ∃ h : r < rows.length, ∃ c < 8, rows[r].getLsbD (7 - c) = true ∧ p = (x0 + c, y0 + r) := by
  induction rows generalizing y0 with
  | nil => simp [spritePixels]
  | cons b bs ih =>
    rw [spritePixels, List.mem_append, mem_rowPixels, ih]
    constructor
    · rintro (⟨c, hc, hb, rfl⟩ | ⟨r, hr, c, hc, hb, rfl⟩)
      · exact ⟨0, by simp, c, hc, by simpa using hb, rfl⟩
      · exact ⟨r + 1, by simpa using hr, c, hc, by simpa using hb, by simp only [Prod.mk.injEq, true_and]; omega⟩
    · rintro ⟨r, hr, c, hc, hb, rfl⟩
      cases r with
      | zero => exact .inl ⟨c, hc, by simpa using hb, rfl⟩
      | succ r =>
        exact .inr ⟨r, by simpa using hr, c, hc, by simpa using hb, by simp only [Prod.mk.injEq, true_and]; omega⟩

/-- The targets are refused exactly when some pixel's target is FAULT (R272). -/
theorem collectTargets_eq_none {p : EdgePolicy} {ps : List (Nat × Nat)} :
    collectTargets p ps = none ↔ ∃ q ∈ ps, target p q.1 q.2 = .fault := by
  induction ps with
  | nil => simp [collectTargets]
  | cons q ps ih =>
    obtain ⟨x, y⟩ := q
    simp only [collectTargets, List.mem_cons, exists_eq_or_imp]
    cases h : target p x y <;> simp [ih]

/-- The targets are the cells of the pixels that have one (R272). -/
theorem mem_collectTargets {p : EdgePolicy} {ps : List (Nat × Nat)} {ts : List (Fin 2048)}
    (h : collectTargets p ps = some ts) (k : Fin 2048) : k ∈ ts ↔ ∃ q ∈ ps, target p q.1 q.2 = .cell k := by
  induction ps generalizing ts with
  | nil => simp_all [collectTargets]
  | cons q ps ih =>
    obtain ⟨x, y⟩ := q
    simp only [collectTargets] at h
    simp only [List.mem_cons, exists_eq_or_imp]
    cases hq : target p x y with
    | fault => simp [hq] at h
    | skip =>
      simp only [hq] at h
      simp [ih h]
    | cell c =>
      simp only [hq, Option.map_eq_some_iff] at h
      obtain ⟨us, hus, rfl⟩ := h
      simp [ih hus, eq_comm]

end Sys2Proof.Machine
end

