-- ==== Sys2Proof/Laws/Exec.lean ====
section
/-! SUPPORT. The meanings that check something first, by case: what each answers when its check passes and when it
fails. The other meanings are their own equation. -/

namespace Sys2Proof.Machine

variable {s : State}

theorem execRet_empty (h : s.sp.val = 0) :
    execRet s = .next (s.latch ⟨.stackUnderflow, s.pc, some (encode .ret), none⟩) := by
  simp [execRet, pop_eq_none.mpr h]

theorem execRet_pop (k : Fin 16) (h : s.sp.val = k.val + 1) :
    execRet s = .next ({ s with sp := ⟨k.val, by omega⟩ }.setPc (s.stack[k] + 2)) := by
  simp only [execRet, pop_eq_some.mpr ⟨k, h, rfl, rfl⟩]

theorem execCall_full (nnn : BitVec 12) (h : s.sp.val = 16) :
    execCall nnn s = .next (s.latch ⟨.stackOverflow, s.pc, some (encode (.call nnn)), none⟩) := by
  simp [execCall, push_eq_none.mpr h]

theorem execCall_push (nnn : BitVec 12) (h : s.sp.val < 16) :
    execCall nnn s =
      .next ({ s with stack := s.stack.set s.sp.val s.pc h, sp := ⟨s.sp.val + 1, by omega⟩ }.setPc (zext16 nnn)) := by
  simp only [execCall, push_eq_some.mpr ⟨h, rfl⟩]

theorem execLdB_inBounds (x : Reg) (h : s.DataInBounds 3) :
    execLdB x s = .next ((s.storeAtI (bcdDigits (s.readV x))).advance 2) := by
  simp [execLdB, dataFault_eq_none.mpr h]

theorem execLdB_outOfBounds (x : Reg) (h : ¬s.DataInBounds 3) :
    execLdB x s =
      .next (s.latch ⟨.dataOutOfBounds, s.pc, some (encode (.ldB x)), some (max s.I.toNat Config.memSize)⟩) := by
  simp [execLdB, dataFault_eq_some.mpr ⟨h, rfl⟩]

theorem execStoreRegs_inBounds (x : Reg) (h : s.DataInBounds (rangeSize x)) :
    execStoreRegs x s = .next ((s.storeAtI (s.regRange x)).advance 2) := by
  simp [execStoreRegs, dataFault_eq_none.mpr h]

theorem execStoreRegs_outOfBounds (x : Reg) (h : ¬s.DataInBounds (rangeSize x)) :
    execStoreRegs x s =
      .next (s.latch ⟨.dataOutOfBounds, s.pc, some (encode (.storeRegs x)), some (max s.I.toNat Config.memSize)⟩) := by
  simp [execStoreRegs, dataFault_eq_some.mpr ⟨h, rfl⟩]

theorem execLoadRegs_inBounds (x : Reg) (h : s.DataInBounds (rangeSize x)) :
    execLoadRegs x s = .next ((s.loadRange x).advance 2) := by
  simp [execLoadRegs, dataFault_eq_none.mpr h]

theorem execLoadRegs_outOfBounds (x : Reg) (h : ¬s.DataInBounds (rangeSize x)) :
    execLoadRegs x s =
      .next (s.latch ⟨.dataOutOfBounds, s.pc, some (encode (.loadRegs x)), some (max s.I.toNat Config.memSize)⟩) := by
  simp [execLoadRegs, dataFault_eq_some.mpr ⟨h, rfl⟩]

theorem execDrw_outOfBounds (x y : Reg) (n : BitVec 4) (h : ¬s.DataInBounds n.toNat) :
    execDrw x y n s =
      .next (s.latch ⟨.dataOutOfBounds, s.pc, some (encode (.drw x y n)), some (max s.I.toNat Config.memSize)⟩) := by
  simp [execDrw, dataFault_eq_some.mpr ⟨h, rfl⟩]

theorem execDrw_offScreen (x y : Reg) (n : BitVec 4) (h : s.DataInBounds n.toNat)
    (ht : collectTargets s.edgePolicy (s.drawPixels x y n) = none) :
    execDrw x y n s = .next (s.latch ⟨.drawOutOfRange, s.pc, some (encode (.drw x y n)), none⟩) := by
  simp [execDrw, dataFault_eq_none.mpr h, ht]

theorem execDrw_draws (x y : Reg) (n : BitVec 4) (h : s.DataInBounds n.toNat) {ts : List (Fin 2048)}
    (ht : collectTargets s.edgePolicy (s.drawPixels x y n) = some ts) :
    execDrw x y n s =
      .next (((s.setFrame (xorCells s.fb ts).1).setFlag (xorCells s.fb ts).2).advance 2) := by
  simp [execDrw, dataFault_eq_none.mpr h, ht]

theorem execSkp_key (x : Reg) {k : Reg} (h : (s.readV x).toNat = k.val) :
    execSkp x s = .next (s.advance (if s.keyDown k then 4 else 2)) := by
  simp [execSkp, keyIndex_eq_some.mpr h, skipIf]

theorem execSkp_noKey (x : Reg) (h : (s.readV x).toNat > 15) :
    execSkp x s = .next (s.latch ⟨.keyIndexOutOfRange, s.pc, some (encode (.skp x)), none⟩) := by
  simp [execSkp, keyIndex_eq_none.mpr h]

theorem execSknp_key (x : Reg) {k : Reg} (h : (s.readV x).toNat = k.val) :
    execSknp x s = .next (s.advance (if s.keyDown k then 2 else 4)) := by
  simp only [execSknp, keyIndex_eq_some.mpr h, skipIf]
  cases s.keyDown k <;> rfl

theorem execSknp_noKey (x : Reg) (h : (s.readV x).toNat > 15) :
    execSknp x s = .next (s.latch ⟨.keyIndexOutOfRange, s.pc, some (encode (.sknp x)), none⟩) := by
  simp [execSknp, keyIndex_eq_none.mpr h]

end Sys2Proof.Machine
end

