-- ==== Sys2Proof/Laws/PerInstr.lean ====
section
/-! SUPPORT. Per-instruction families. EncodesRow: the word of the instruction belongs to its own row of the spec's
opcode table. -/

namespace Sys2Proof.Laws.EncodesRow

/-- The encoded word has the fixed bits of the instruction's row, and the row stands in the table. -/
def Statement (i : Instr) : Prop := i.row.covers (encode i) = true ∧ i.row ∈ opcodeTable

theorem cls : Statement (.cls) := ⟨by decide, by decide⟩
theorem ret : Statement (.ret) := ⟨by decide, by decide⟩
theorem jp (nnn : BitVec 12) : Statement (.jp nnn) := ⟨decide_eq_true (encNNN_and_mask _ _), by simp [Instr.row, opcodeTable]⟩
theorem call (nnn : BitVec 12) : Statement (.call nnn) := ⟨decide_eq_true (encNNN_and_mask _ _), by simp [Instr.row, opcodeTable]⟩
theorem seByte (x : Reg) (nn : Byte) : Statement (.seByte x nn) := ⟨decide_eq_true (encXNN_and_mask _ _ _), by simp [Instr.row, opcodeTable]⟩
theorem sneByte (x : Reg) (nn : Byte) : Statement (.sneByte x nn) := ⟨decide_eq_true (encXNN_and_mask _ _ _), by simp [Instr.row, opcodeTable]⟩
theorem seReg (x : Reg) (y : Reg) : Statement (.seReg x y) := ⟨decide_eq_true (encXYN_and_maskXYF _ _ _ _), by simp [Instr.row, opcodeTable]⟩
theorem ldByte (x : Reg) (nn : Byte) : Statement (.ldByte x nn) := ⟨decide_eq_true (encXNN_and_mask _ _ _), by simp [Instr.row, opcodeTable]⟩
theorem addByte (x : Reg) (nn : Byte) : Statement (.addByte x nn) := ⟨decide_eq_true (encXNN_and_mask _ _ _), by simp [Instr.row, opcodeTable]⟩
theorem ldReg (x : Reg) (y : Reg) : Statement (.ldReg x y) := ⟨decide_eq_true (encXYN_and_maskXYF _ _ _ _), by simp [Instr.row, opcodeTable]⟩
theorem orReg (x : Reg) (y : Reg) : Statement (.orReg x y) := ⟨decide_eq_true (encXYN_and_maskXYF _ _ _ _), by simp [Instr.row, opcodeTable]⟩
theorem andReg (x : Reg) (y : Reg) : Statement (.andReg x y) := ⟨decide_eq_true (encXYN_and_maskXYF _ _ _ _), by simp [Instr.row, opcodeTable]⟩
theorem xorReg (x : Reg) (y : Reg) : Statement (.xorReg x y) := ⟨decide_eq_true (encXYN_and_maskXYF _ _ _ _), by simp [Instr.row, opcodeTable]⟩
theorem addReg (x : Reg) (y : Reg) : Statement (.addReg x y) := ⟨decide_eq_true (encXYN_and_maskXYF _ _ _ _), by simp [Instr.row, opcodeTable]⟩
theorem subReg (x : Reg) (y : Reg) : Statement (.subReg x y) := ⟨decide_eq_true (encXYN_and_maskXYF _ _ _ _), by simp [Instr.row, opcodeTable]⟩
theorem shr (x : Reg) (y : Reg) : Statement (.shr x y) := ⟨decide_eq_true (encXYN_and_maskXYF _ _ _ _), by simp [Instr.row, opcodeTable]⟩
theorem subnReg (x : Reg) (y : Reg) : Statement (.subnReg x y) := ⟨decide_eq_true (encXYN_and_maskXYF _ _ _ _), by simp [Instr.row, opcodeTable]⟩
theorem shl (x : Reg) (y : Reg) : Statement (.shl x y) := ⟨decide_eq_true (encXYN_and_maskXYF _ _ _ _), by simp [Instr.row, opcodeTable]⟩
theorem sneReg (x : Reg) (y : Reg) : Statement (.sneReg x y) := ⟨decide_eq_true (encXYN_and_maskXYF _ _ _ _), by simp [Instr.row, opcodeTable]⟩
theorem ldI (nnn : BitVec 12) : Statement (.ldI nnn) := ⟨decide_eq_true (encNNN_and_mask _ _), by simp [Instr.row, opcodeTable]⟩
theorem jpV0 (nnn : BitVec 12) : Statement (.jpV0 nnn) := ⟨decide_eq_true (encNNN_and_mask _ _), by simp [Instr.row, opcodeTable]⟩
theorem rnd (x : Reg) (nn : Byte) : Statement (.rnd x nn) := ⟨decide_eq_true (encXNN_and_mask _ _ _), by simp [Instr.row, opcodeTable]⟩
theorem drw (x : Reg) (y : Reg) (n : BitVec 4) : Statement (.drw x y n) := ⟨decide_eq_true (encXYN_and_mask _ _ _ _), by simp [Instr.row, opcodeTable]⟩
theorem skp (x : Reg) : Statement (.skp x) := ⟨decide_eq_true (encXNN_and_maskXFF _ _ _), by simp [Instr.row, opcodeTable]⟩
theorem sknp (x : Reg) : Statement (.sknp x) := ⟨decide_eq_true (encXNN_and_maskXFF _ _ _), by simp [Instr.row, opcodeTable]⟩
theorem ldVxDT (x : Reg) : Statement (.ldVxDT x) := ⟨decide_eq_true (encXNN_and_maskXFF _ _ _), by simp [Instr.row, opcodeTable]⟩
theorem ldVxK (x : Reg) : Statement (.ldVxK x) := ⟨decide_eq_true (encXNN_and_maskXFF _ _ _), by simp [Instr.row, opcodeTable]⟩
theorem ldDTVx (x : Reg) : Statement (.ldDTVx x) := ⟨decide_eq_true (encXNN_and_maskXFF _ _ _), by simp [Instr.row, opcodeTable]⟩
theorem ldSTVx (x : Reg) : Statement (.ldSTVx x) := ⟨decide_eq_true (encXNN_and_maskXFF _ _ _), by simp [Instr.row, opcodeTable]⟩
theorem addI (x : Reg) : Statement (.addI x) := ⟨decide_eq_true (encXNN_and_maskXFF _ _ _), by simp [Instr.row, opcodeTable]⟩
theorem ldF (x : Reg) : Statement (.ldF x) := ⟨decide_eq_true (encXNN_and_maskXFF _ _ _), by simp [Instr.row, opcodeTable]⟩
theorem ldB (x : Reg) : Statement (.ldB x) := ⟨decide_eq_true (encXNN_and_maskXFF _ _ _), by simp [Instr.row, opcodeTable]⟩
theorem storeRegs (x : Reg) : Statement (.storeRegs x) := ⟨decide_eq_true (encXNN_and_maskXFF _ _ _), by simp [Instr.row, opcodeTable]⟩
theorem loadRegs (x : Reg) : Statement (.loadRegs x) := ⟨decide_eq_true (encXNN_and_maskXFF _ _ _), by simp [Instr.row, opcodeTable]⟩

end Sys2Proof.Laws.EncodesRow
end

