-- ==== Sys2Proof/Laws/Step.lean ====
section
/-! SUPPORT. What a step can do, said once: its five cases as equations, and what a handler does with the fault record. -/

namespace Sys2Proof.Machine

variable {s t : State}

/-! ### The five cases of a step (40_step_cycle.md R140, R348) -/

theorem step_of_fault (h : s.fault ≠ none) : step s = .next s := by
  have h' : s.fault.isSome = true := Option.isSome_iff_ne_none.mpr h
  rw [step, if_pos h']

theorem step_of_stopped (h : s.stopped = true) : step s = .next s := by
  simp [step, h]

theorem step_of_fetchFault {a : Nat} (hr : s.Running) (h : s.fetchFault = some a) :
    step s = .next (s.latch ⟨.fetchOutOfBounds, s.pc, none, some a⟩) := by
  simp [step, hr.1, hr.2, h]

theorem step_of_illegal (hr : s.Running) (hf : s.CanFetch) (h : decode s.fetchWord = none) :
    step s = .next (s.latch ⟨.illegalInstruction, s.pc, some s.fetchWord, none⟩) := by
  simp [step, hr.1, hr.2, fetchFault_eq_none.mpr hf, h]

theorem step_of_decode {i : Instr} (hr : s.Running) (hf : s.CanFetch) (h : decode s.fetchWord = some i) :
    step s = afterExec (exec i s) := by
  simp [step, hr.1, hr.2, fetchFault_eq_none.mpr hf, h]

/-- The inversion of a step: which of the five cases holds, and what it answers. -/
theorem step_cases (s : State) :
    (s.fault ≠ none ∧ step s = .next s) ∨
    (s.stopped = true ∧ step s = .next s) ∨
    (s.Running ∧ ¬s.CanFetch ∧ ∃ a, s.fetchFault = some a ∧
      step s = .next (s.latch ⟨.fetchOutOfBounds, s.pc, none, some a⟩)) ∨
    (s.Running ∧ s.CanFetch ∧ decode s.fetchWord = none ∧
      step s = .next (s.latch ⟨.illegalInstruction, s.pc, some s.fetchWord, none⟩)) ∨
    (s.Running ∧ s.CanFetch ∧ ∃ i, decode s.fetchWord = some i ∧ step s = afterExec (exec i s)) := by
  by_cases h1 : s.fault = none
  swap
  · exact .inl ⟨h1, step_of_fault h1⟩
  cases h2 : s.stopped
  swap
  · exact .inr (.inl ⟨rfl, step_of_stopped h2⟩)
  have hr : s.Running := ⟨h1, h2⟩
  cases hf : s.fetchFault with
  | some a =>
    exact .inr (.inr (.inl ⟨hr, (fetchFault_eq_some.mp hf).1, a, rfl, step_of_fetchFault hr hf⟩))
  | none =>
    have hc := fetchFault_eq_none.mp hf
    cases hd : decode s.fetchWord with
    | none => exact .inr (.inr (.inr (.inl ⟨hr, hc, rfl, step_of_illegal hr hc hd⟩)))
    | some i => exact .inr (.inr (.inr (.inr ⟨hr, hc, i, rfl, step_of_decode hr hc hd⟩)))

/-! ### After the handler -/

theorem afterExec_of_fault (h : t.fault ≠ none) : afterExec (.next t) = .next t := by
  have h' : t.fault.isSome = true := Option.isSome_iff_ne_none.mpr h
  simp [afterExec, h']

theorem afterExec_of_noFault (h : t.fault = none) : afterExec (.next t) = .next t.finishStep := by
  simp [afterExec, h]

/-- What a handler's own fault latches: its causes are those of R348, its record holds pc and the instruction's word. -/
def HandlerFault (i : Instr) (s t : State) : Prop :=
  ∃ c a, t = s.latch ⟨c, s.pc, some (encode i), a⟩ ∧ c ≠ .fetchOutOfBounds ∧ c ≠ .illegalInstruction ∧
    (a = none ↔ c ≠ .dataOutOfBounds) ∧ ∀ b, a = some b → Config.memSize ≤ b

/-- Every handler answers a next state, in which it has either latched its own fault and done nothing else, or left the
fault record as it was. -/
theorem exec_cases (i : Instr) (s : State) :
    ∃ t, exec i s = .next t ∧ (HandlerFault i s t ∨ t.fault = s.fault) := by
  have data : ∀ c : Nat, ∃ t : State, (Host.Outcome.next (s.latch ⟨.dataOutOfBounds, s.pc, some (encode i),
      some (max c Config.memSize)⟩) : Result) = .next t ∧ (HandlerFault i s t ∨ t.fault = s.fault) := fun c =>
    ⟨_, rfl, .inl ⟨.dataOutOfBounds, _, rfl, by simp, by simp, by simp, by simp⟩⟩
  have other : ∀ c : Fault, c ≠ .fetchOutOfBounds → c ≠ .illegalInstruction → c ≠ .dataOutOfBounds →
      ∃ t : State, (Host.Outcome.next (s.latch ⟨c, s.pc, some (encode i), none⟩) : Result) = .next t ∧
        (HandlerFault i s t ∨ t.fault = s.fault) := fun c h1 h2 h3 =>
    ⟨_, rfl, .inl ⟨c, none, rfl, h1, h2, by simp [h3], by simp⟩⟩
  cases i with
  | ret =>
    by_cases h : s.sp.val = 0
    · simpa only [exec, execRet_empty h] using other .stackUnderflow (by simp) (by simp) (by simp)
    · exact ⟨_, execRet_pop ⟨s.sp.val - 1, by omega⟩ (by simp only; omega), .inr rfl⟩
  | call nnn =>
    by_cases h : s.sp.val < 16
    · exact ⟨_, execCall_push nnn h, .inr rfl⟩
    · have hlt := s.sp.isLt
      have hfull : s.sp.val = 16 := by omega
      simpa only [exec, execCall_full nnn hfull] using other .stackOverflow (by simp) (by simp) (by simp)
  | drw x y n =>
    by_cases h : s.DataInBounds n.toNat
    · cases ht : collectTargets s.edgePolicy (s.drawPixels x y n) with
      | none => simpa only [exec, execDrw_offScreen x y n h ht] using other .drawOutOfRange (by simp) (by simp) (by simp)
      | some ts => exact ⟨_, execDrw_draws x y n h ht, .inr rfl⟩
    · simpa only [exec, execDrw_outOfBounds x y n h] using data _
  | skp x =>
    by_cases h : (s.readV x).toNat > 15
    · simpa only [exec, execSkp_noKey x h] using other .keyIndexOutOfRange (by simp) (by simp) (by simp)
    · exact ⟨_, execSkp_key x (k := ⟨(s.readV x).toNat, by omega⟩) rfl, .inr rfl⟩
  | sknp x =>
    by_cases h : (s.readV x).toNat > 15
    · simpa only [exec, execSknp_noKey x h] using other .keyIndexOutOfRange (by simp) (by simp) (by simp)
    · exact ⟨_, execSknp_key x (k := ⟨(s.readV x).toNat, by omega⟩) rfl, .inr rfl⟩
  | ldB x =>
    by_cases h : s.DataInBounds 3
    · exact ⟨_, execLdB_inBounds x h, .inr rfl⟩
    · simpa only [exec, execLdB_outOfBounds x h] using data _
  | storeRegs x =>
    by_cases h : s.DataInBounds (rangeSize x)
    · exact ⟨_, execStoreRegs_inBounds x h, .inr rfl⟩
    · simpa only [exec, execStoreRegs_outOfBounds x h] using data _
  | loadRegs x =>
    by_cases h : s.DataInBounds (rangeSize x)
    · exact ⟨_, execLoadRegs_inBounds x h, .inr rfl⟩
    · simpa only [exec, execLoadRegs_outOfBounds x h] using data _
  | _ => exact ⟨_, rfl, .inr rfl⟩

/-- Everything an accepted host call can do. The key of an event stands as a key of the pad. -/
theorem hostCall_cases {c : HostCall} {s t : State} (h : hostCall c s = .accepted t) :
    (∃ rand u, c = .step rand ∧ step (s.setRand (some rand)) = .next u ∧ t = u.setRand none) ∨
    (∃ bytes, c = .load bytes ∧ s.fault = none ∧ bytes.length ≤ Config.loadMax ∧
      t = s.setMem (s.mem.writeBytes Config.progStart bytes)) ∨
    (∃ k : Reg, c = .handleInput (.down k.val) ∧ s.fault = none ∧ t = s.pressKey k) ∨
    (∃ k : Reg, c = .handleInput (.up k.val) ∧ s.fault = none ∧ t = s.releaseKey k) ∨
    (c = .ackRedraw ∧ t = { s with redraw := false }) := by
  cases c with
  | step rand =>
    cases hu : step (s.setRand (some rand)) <;> simp only [hostCall, stepWith, hu, mapNext] at h <;> cases h
    exact .inl ⟨rand, _, rfl, hu, rfl⟩
  | load bytes =>
    simp only [hostCall, load] at h
    split at h <;> cases h
    rename_i hc
    simp only [imageFits, Bool.or_eq_true, Bool.not_eq_true', decide_eq_false_iff_not, not_or, not_not,
      Option.isSome_iff_ne_none, ne_eq] at hc
    exact .inr (.inl ⟨bytes, rfl, hc.1, hc.2, rfl⟩)
  | handleInput e =>
    simp only [hostCall, handleInput] at h
    split at h
    · cases h
    · rename_i hf
      have hf : s.fault = none := by simpa using hf
      cases e with
      | down k =>
        by_cases hk : k < Config.numKeys <;> simp only [hk, dite_true, dite_false] at h <;> cases h
        exact .inr (.inr (.inl ⟨⟨k, hk⟩, rfl, hf, rfl⟩))
      | up k =>
        by_cases hk : k < Config.numKeys <;> simp only [hk, dite_true, dite_false] at h <;> cases h
        exact .inr (.inr (.inr (.inl ⟨⟨k, hk⟩, rfl, hf, rfl⟩)))
  | ackRedraw => cases h; exact .inr (.inr (.inr (.inr ⟨rfl, rfl⟩)))

end Sys2Proof.Machine
end

