-- ==== Sys2Proof/Tests/Slice0.lean ====
section
/-! SUPPORT. Tests: the smoke of WellFormed; a word of each instruction written out from the spec's encodings; one-step
vectors taken from spec/95_test_vectors.md and the rules' examples; and, for every statement with hypotheses, a witness
that meets them. -/

namespace Sys2Proof.Machine.Tests

/-! ### WellFormed: each check refuses an ill-formed term and admits the boundary -/

theorem test_wf_keyDown16_refused : (HostCall.handleInput (.down 16)).wf = false := by decide
theorem test_wf_keyUp16_refused : (HostCall.handleInput (.up 16)).wf = false := by decide
theorem test_wf_key15_admitted : (HostCall.handleInput (.down 15)).wf = true := by decide
theorem imageFits_replicate (n : Nat) : imageFits (List.replicate n 0) = decide (n ≤ 3584) := by
  rw [imageFits, List.length_replicate]; rfl
theorem test_wf_load3585_refused : (HostCall.load (List.replicate 3585 0)).wf = false :=
  (imageFits_replicate 3585).trans (by decide)
theorem test_wf_load3584_admitted : (HostCall.load (List.replicate 3584 0)).wf = true :=
  (imageFits_replicate 3584).trans (by decide)

/-! ### Decoding: words written out from the patterns of 30_encoding.md R113 -/

theorem test_decode_cls : decode 0b0000000011100000 = some .cls := by decide
theorem test_decode_ret : decode 0b0000000011101110 = some .ret := by decide
theorem test_decode_jp : decode 0b0001101010111100 = some (.jp 0xABC) := by decide
theorem test_decode_call : decode 0b0010001000001010 = some (.call 0x20A) := by decide
theorem test_decode_seByte : decode 0b0011001000110011 = some (.seByte 2 0x33) := by decide
theorem test_decode_sneByte : decode 0b0100001000110100 = some (.sneByte 2 0x34) := by decide
theorem test_decode_seReg : decode 0b0101000100100000 = some (.seReg 1 2) := by decide
theorem test_decode_ldByte : decode 0b0110101001011100 = some (.ldByte 10 0x5C) := by decide
theorem test_decode_addByte : decode 0b0111001000000011 = some (.addByte 2 0x03) := by decide
theorem test_decode_ldReg : decode 0b1000000101010000 = some (.ldReg 1 5) := by decide
theorem test_decode_orReg : decode 0b1000000000010001 = some (.orReg 0 1) := by decide
theorem test_decode_andReg : decode 0b1000000000010010 = some (.andReg 0 1) := by decide
theorem test_decode_xorReg : decode 0b1000000000010011 = some (.xorReg 0 1) := by decide
theorem test_decode_addReg : decode 0b1000101010110100 = some (.addReg 10 11) := by decide
theorem test_decode_subReg : decode 0b1000000100100101 = some (.subReg 1 2) := by decide
theorem test_decode_shr : decode 0b1000010001010110 = some (.shr 4 5) := by decide
theorem test_decode_subnReg : decode 0b1000000100100111 = some (.subnReg 1 2) := by decide
theorem test_decode_shl : decode 0b1000010001011110 = some (.shl 4 5) := by decide
theorem test_decode_sneReg : decode 0b1001000100100000 = some (.sneReg 1 2) := by decide
theorem test_decode_ldI : decode 0b1010001100000000 = some (.ldI 0x300) := by decide
theorem test_decode_jpV0 : decode 0b1011010100000000 = some (.jpV0 0x500) := by decide
theorem test_decode_rnd : decode 0b1100001100001111 = some (.rnd 3 0x0F) := by decide
theorem test_decode_drw : decode 0b1101000100100101 = some (.drw 1 2 5) := by decide
theorem test_decode_skp : decode 0b1110000110011110 = some (.skp 1) := by decide
theorem test_decode_sknp : decode 0b1110000110100001 = some (.sknp 1) := by decide
theorem test_decode_ldVxDT : decode 0b1111001100000111 = some (.ldVxDT 3) := by decide
theorem test_decode_ldVxK : decode 0b1111010100001010 = some (.ldVxK 5) := by decide
theorem test_decode_ldDTVx : decode 0b1111000000010101 = some (.ldDTVx 0) := by decide
theorem test_decode_ldSTVx : decode 0b1111000000011000 = some (.ldSTVx 0) := by decide
theorem test_decode_addI : decode 0b1111001000011110 = some (.addI 2) := by decide
theorem test_decode_ldF : decode 0b1111000000101001 = some (.ldF 0) := by decide
theorem test_decode_ldB : decode 0b1111000000110011 = some (.ldB 0) := by decide
theorem test_decode_storeRegs : decode 0b1111001001010101 = some (.storeRegs 2) := by decide
theorem test_decode_loadRegs : decode 0b1111010001100101 = some (.loadRegs 4) := by decide

/-- Vector F6: these words are illegal. -/
theorem test_decode_illegal :
    [0x0000#16, 0x0123#16, 0x00E1#16, 0x00FF#16, 0x0EE0#16, 0x5121#16, 0x800F#16, 0x8008#16, 0x912F#16, 0xE09F#16,
      0xE000#16, 0xF000#16, 0xF0FF#16, 0xF01F#16, 0xFFFF#16].all (fun w => (decode w).isNone) = true := by decide +kernel

theorem test_decodeBytes_bigEndian : (decodeBytes [0x63, 0x07, 0xAA]).toOption = some (.ldByte 3 7, [0xAA]) := by decide
theorem test_decodeBytes_truncated : (decodeBytes [0x63]).toOption = none := by decide
theorem test_decodeTableWord_add : decodeTableWord 16 0x8AB4 = some (.addReg 10 11) := by decide
theorem test_encode_sub : encode (.subReg 1 2) = 0x8125 := by decide

/-! ### One step on a small state: the vectors of 95_test_vectors.md -/

/-- The reset state with `w` at pc = `p` and some registers set. -/
def start (p : Word) (w : Nat) (regs : List (Reg × Byte)) : State :=
  regs.foldl (fun s r => s.writeV r.1 r.2) ({ State.reset with pc := p }.withFetchWord 16 w)

/-- The state after one step. -/
def after (s : State) : State :=
  match step s with
  | .next t => t
  | _ => s

/-- The state after one call `step(rand)`. -/
def afterWith (rand : Byte) (s : State) : State :=
  match stepWith rand s with
  | .next t => t
  | _ => s

-- C1, C3, C4, C5, C6, C9, C11
theorem test_jp : (after (start 0x200 0x1ABC [])).pc = 0xABC := by decide
theorem test_call : let t := after (start 0x204 0x220A []); (t.stack[0], t.sp, t.pc) = (0x204, 1, 0x20A) := by decide
theorem test_ret :
    let t := after { start 0x20E 0x00EE [] with sp := 1, stack := State.reset.stack.set 0 0x204 }
    (t.sp, t.pc, t.stack[0]) = (0, 0x206, 0x204) := by decide
theorem test_ret_underflow : (after (start 0x200 0x00EE [])).fault = some ⟨.stackUnderflow, 0x200, some 0x00EE, none⟩ := by
  decide
theorem test_call_overflow :
    (after { start 0x200 0x2300 [] with sp := 16 }).fault = some ⟨.stackOverflow, 0x200, some 0x2300, none⟩ := by decide
theorem test_jpV0 : (after (start 0x200 0xB300 [(0, 4)])).pc = 0x304 := by decide
theorem test_jpV0_ignoresX : (after (start 0x200 0xB500 [(5, 0x10)])).pc = 0x500 := by decide
-- S1v, S4v, S6v, S8v
theorem test_seByte : (after (start 0x300 0x3233 [(2, 0x33)])).pc = 0x304 := by decide
theorem test_sneByte : (after (start 0x300 0x4234 [(2, 0x33)])).pc = 0x304 := by decide
theorem test_seReg : (after (start 0x300 0x5120 [(1, 7), (2, 8)])).pc = 0x302 := by decide
theorem test_sneReg : (after (start 0x300 0x9120 [(1, 7), (2, 8)])).pc = 0x304 := by decide
-- A1, A4, A5, A6, A7, A8
theorem test_ldByte : (after (start 0x200 0x6A5C [])).readV 10 = 0x5C := by decide
theorem test_addByte_vf : (after (start 0x200 0x7F01 [(15, 0xFF)])).readV 15 = 0 := by decide
theorem test_ldReg : (after (start 0x200 0x8010 [(1, 0x42)])).readV 0 = 0x42 := by decide
theorem test_orReg : let t := after (start 0x200 0x8011 [(0, 0xF0), (1, 0x3C), (15, 0x55)]);
    (t.readV 0, t.readV 15) = (0xFC, 0x55) := by decide
theorem test_andReg : (after (start 0x200 0x8012 [(0, 0xF0), (1, 0x3C)])).readV 0 = 0x30 := by decide
theorem test_xorReg : (after (start 0x200 0x8013 [(0, 0xF0), (1, 0x3C)])).readV 0 = 0xCC := by decide
-- A10, A15, A17, A22, A25, A26, A28, A34, A35
theorem test_addReg : let t := after (start 0x200 0x8AB4 [(10, 0xFF), (11, 2)]);
    (t.readV 10, t.readV 15) = (1, 1) := by decide
theorem test_addReg_intoVF : (after (start 0x200 0x8F14 [(15, 0x10), (1, 0xF5)])).readV 15 = 1 := by decide
theorem test_subReg : let t := after (start 0x200 0x8125 [(1, 5), (2, 7)]);
    (t.readV 1, t.readV 15) = (0xFE, 0) := by decide
theorem test_subReg_intoVF : (after (start 0x200 0x8F15 [(15, 0x10), (1, 0x20)])).readV 15 = 0 := by decide
theorem test_shr_ignoresY : let t := after (start 0x200 0x8456 [(4, 4), (5, 0xFF)]);
    (t.readV 4, t.readV 5, t.readV 15) = (2, 0xFF, 0) := by decide
theorem test_shr_intoVF : (after (start 0x200 0x8F06 [(15, 2)])).readV 15 = 0 := by decide
theorem test_subnReg : let t := after (start 0x200 0x8127 [(1, 7), (2, 5)]);
    (t.readV 1, t.readV 15) = (0xFE, 0) := by decide
theorem test_shl : let t := after (start 0x200 0x845E [(4, 0x81), (5, 0xFF)]);
    (t.readV 4, t.readV 15) = (2, 1) := by decide
theorem test_shl_intoVF : (after (start 0x200 0x8F0E [(15, 0x40)])).readV 15 = 0 := by decide
-- A39, A38
theorem test_rnd : (afterWith 0xA7 (start 0x200 0xC30F [])).readV 3 = 0x07 := by decide
theorem test_rnd_maskZero : (afterWith 0xA7 (start 0x200 0xC300 [(3, 9)])).readV 3 = 0 := by decide
-- M1, M4, M6, M10, M11, M15, M19, M20, M23, M25
theorem test_ldI : (after (start 0x200 0xA123 [])).I = 0x123 := by decide
theorem test_addI_wraps : let t := after { start 0x200 0xF01E [(0, 1)] with I := 0xFFFF };
    (t.I, t.readV 15) = (0, 1) := by decide
theorem test_addI_vf : let t := after { start 0x200 0xFF1E [(15, 5)] with I := 0x100 };
    (t.I, t.readV 15) = (0x105, 0) := by decide
theorem test_ldF : (after (start 0x200 0xF029 [(0, 0xFF)])).I = 0x4FB := by decide
theorem test_ldB : (after { start 0x200 0xF033 [(0, 0x9C)] with I := 0x300 }).mem.readBytes 0x300 3 = [1, 5, 6] := by decide
theorem test_ldB_fault :
    (after { start 0x200 0xF033 [(0, 7)] with I := 0xFFE }).fault =
      some ⟨.dataOutOfBounds, 0x200, some 0xF033, some 0x1000⟩ := by decide
theorem test_storeRegs :
    (after { start 0x200 0xF255 [(0, 0x11), (1, 0x22), (2, 0x33)] with I := 0x400 }).mem.readBytes 0x3FF 5 =
      [0, 0x11, 0x22, 0x33, 0] := by decide
theorem test_storeRegs_fault :
    (after { start 0x200 0xFF55 [] with I := 0xFF1 }).fault =
      some ⟨.dataOutOfBounds, 0x200, some 0xFF55, some 0x1000⟩ := by decide
theorem test_loadRegs_glyph0 : ((after (start 0x200 0xF465 [(5, 9)])).v.toList.take 6) = [0xF0, 0x90, 0x90, 0x90, 0xF0, 9] := by
  decide
theorem test_loadRegs_fault :
    (after { start 0x200 0xF165 [] with I := 0xFFF }).fault =
      some ⟨.dataOutOfBounds, 0x200, some 0xF165, some 0x1000⟩ := by decide
-- D1; D11 under each policy, by the cell at (62,0), (0,0), (0,1)
theorem test_cls : let t := after { start 0x200 0x00E0 [] with fb := Vector.replicate 32 0xFF };
    (t.fb.cell 5, t.redraw) = (false, true) := by decide
/-- The state of vector D11 under a policy. -/
def edgeStart (p : EdgePolicy) : State := { start 0x200 0xD125 [(1, 0x3E)] with edgePolicy := p }
/-- The cells (62,0), (0,0) and (0,1), and the fault cause. -/
def edgeView (t : State) : (Bool × Bool × Bool) × Option Fault := ((t.fb.cell 62, t.fb.cell 0, t.fb.cell 64), t.fault.map (·.cause))
theorem test_drw_wrap : edgeView (after (edgeStart .wrap)) = ((true, true, false), none) := by decide
theorem test_drw_clip : edgeView (after (edgeStart .clip)) = ((true, false, false), none) := by decide
theorem test_drw_linear : edgeView (after (edgeStart .linear)) = ((true, false, true), none) := by decide
theorem test_drw_fault : edgeView (after (edgeStart .fault)) = ((false, false, false), some .drawOutOfRange) := by decide
-- K1, K4, K6, K10, K13, K17, K19, K21
theorem test_ldDTVx : (after (start 0x200 0xF015 [(0, 3)])).delayT = 2 := by decide
theorem test_ldSTVx : (after (start 0x200 0xF018 [(0, 10)])).soundT = 9 := by decide
theorem test_ldVxDT : let t := after { start 0x200 0xF307 [] with delayT := 5 }; (t.readV 3, t.delayT) = (5, 4) := by decide
theorem test_ldVxK : let t := after { start 0x300 0xF50A [] with delayT := 4 };
    (t.stopped, t.waitX, t.pc, t.delayT) = (true, 5, 0x302, 3) := by decide
theorem test_keyDown_wakes : let t := (after { start 0x300 0xF50A [] with delayT := 4 }).pressKey 11;
    (t.readV 5, t.stopped, t.keyDown 11, t.pc, t.delayT) = (0x0B, false, true, 0x302, 3) := by decide
theorem test_skp : (after ((start 0x300 0xE19E [(1, 10)]).setKey 10 true)).pc = 0x304 := by decide
theorem test_skp_fault : (after (start 0x300 0xE19E [(1, 16)])).fault = some ⟨.keyIndexOutOfRange, 0x300, some 0xE19E, none⟩ := by
  decide
theorem test_sknp : (after (start 0x300 0xE1A1 [(1, 10)])).pc = 0x304 := by decide
-- F1, F2, F3, F4, F9
theorem test_fetch_atFFE : (after (start 0xFFE 0x1200 [])).pc = 0x200 := by decide
theorem test_fetch_atFFF : (after { State.reset with pc := 0xFFF }).fault = some ⟨.fetchOutOfBounds, 0xFFF, none, some 0x1000⟩ := by
  decide
theorem test_fetch_at1000 :
    (after { State.reset with pc := 0x1000 }).fault = some ⟨.fetchOutOfBounds, 0x1000, none, some 0x1000⟩ := by decide
theorem test_fetch_odd : let t := after (start 0x201 0x6307 []); (t.readV 3, t.pc) = (7, 0x203) := by decide
theorem test_unloaded : (after State.reset).fault = some ⟨.illegalInstruction, 0x200, some 0, none⟩ := by decide
/-- The default parameters construct the reset state. -/
theorem test_construct_default : State.construct Config.default = State.reset := by decide +kernel
/-- Vector F8: after a fault the keypad call is rejected. -/
theorem test_faulted_rejects : handleInput (.down 1) (after State.reset) = .rejected := by decide

/-! ### Witnesses: for each statement with hypotheses, concrete terms that meet them, clause by clause at boundaries -/

theorem witness_DecodeOfEncode : (Instr.storeRegs 15).wf = true := rfl
theorem witness_EncodeOfDecode : decode 0x8AB6 = some (.shr 10 11) := by decide
theorem witness_DecodeFollowsOpcodeMap_fields :
    let w : Word := 0x8ABE
    (10 : Reg).val = w.toNat / 256 % 16 ∧ (11 : Reg).val = w.toNat / 16 % 16 ∧ (0xE#4).toNat = w.toNat % 16 ∧
      (0xBE#8).toNat = w.toNat % 256 ∧ (0xABE#12).toNat = w.toNat % 4096 := by decide
/-- The first and last word of each masked row (a word, the mask, the match). -/
theorem witness_DecodeFollowsOpcodeMap_rows :
    (([(0x0000, 0xF000, 0x0000), (0x0FFF, 0xF000, 0x0000), (0x1000, 0xF000, 0x1000), (0x1FFF, 0xF000, 0x1000),
        (0x2000, 0xF000, 0x2000), (0x2FFF, 0xF000, 0x2000), (0x3000, 0xF000, 0x3000), (0x3FFF, 0xF000, 0x3000),
        (0x4000, 0xF000, 0x4000), (0x4FFF, 0xF000, 0x4000), (0x5000, 0xF000, 0x5000), (0x5FFF, 0xF000, 0x5000),
        (0x6000, 0xF000, 0x6000), (0x6FFF, 0xF000, 0x6000), (0x7000, 0xF000, 0x7000), (0x7FFF, 0xF000, 0x7000)] ++
      [(0x8FF0, 0xF00F, 0x8000), (0x8FF1, 0xF00F, 0x8001), (0x8FF2, 0xF00F, 0x8002), (0x8FF3, 0xF00F, 0x8003),
        (0x8FF4, 0xF00F, 0x8004), (0x8FF5, 0xF00F, 0x8005), (0x8FF6, 0xF00F, 0x8006), (0x8FF7, 0xF00F, 0x8007),
        (0x8FFE, 0xF00F, 0x800E), (0x8FFF, 0xF000, 0x8000), (0x9000, 0xF000, 0x9000), (0x9FFF, 0xF000, 0x9000)] ++
      [(0xAFFF, 0xF000, 0xA000), (0xBFFF, 0xF000, 0xB000), (0xCFFF, 0xF000, 0xC000), (0xDFFF, 0xF000, 0xD000),
        (0xEF9E, 0xF0FF, 0xE09E), (0xEFA1, 0xF0FF, 0xE0A1), (0xEFFF, 0xF000, 0xE000), (0xFF07, 0xF0FF, 0xF007),
        (0xFF0A, 0xF0FF, 0xF00A), (0xFF15, 0xF0FF, 0xF015), (0xFF18, 0xF0FF, 0xF018), (0xFF1E, 0xF0FF, 0xF01E),
        (0xFF29, 0xF0FF, 0xF029), (0xFF33, 0xF0FF, 0xF033), (0xFF55, 0xF0FF, 0xF055), (0xFF65, 0xF0FF, 0xF065),
        (0xFFFF, 0xF000, 0xF000)] : List (Word × Word × Word)).all fun p => p.1 &&& p.2.1 == p.2.2) = true := by decide +kernel
theorem witness_OpcodeTableIsUnambiguous :
    decode 0xFF65 = some (.loadRegs 15) ∧ (Instr.loadRegs 15).row ∈ opcodeTable ∧
      (Instr.loadRegs 15).row.covers 0xFF65 = true := by decide

/-! #### The step -/

/-- A running core with a legal word at 0xFFE, the last address a fetch succeeds at. -/
def lastFetch (w : Nat) : State := start 0xFFE w []

theorem witness_StepRunsDecodedInstruction_noFault :
    (lastFetch 0x1ABC).Running ∧ (lastFetch 0x1ABC).CanFetch ∧
      (0x1ABC#16).toNat = ((lastFetch 0x1ABC).mem.read 0xFFE).toNat * 256 + ((lastFetch 0x1ABC).mem.read 0xFFF).toNat ∧
      decode 0x1ABC = some (.jp 0xABC) ∧ ∃ t, exec (.jp 0xABC) (lastFetch 0x1ABC) = .next t ∧ t.fault = none :=
  ⟨⟨rfl, rfl⟩, by unfold State.CanFetch; decide, by decide, by decide, _, rfl, rfl⟩
theorem witness_StepRunsDecodedInstruction_fault :
    (lastFetch 0x00EE).Running ∧ (lastFetch 0x00EE).CanFetch ∧
      (0x00EE#16).toNat = ((lastFetch 0x00EE).mem.read 0xFFE).toNat * 256 + ((lastFetch 0x00EE).mem.read 0xFFF).toNat ∧
      decode 0x00EE = some .ret ∧ ∃ t, exec .ret (lastFetch 0x00EE) = .next t ∧ t.fault ≠ none :=
  ⟨⟨rfl, rfl⟩, by unfold State.CanFetch; decide, by decide, by decide, _, rfl, nofun⟩
/-- The handler runs with the host's draw on the port, both with and without a fault. -/
theorem witness_StepCallFollowsTheCycle_legal :
    (lastFetch 0xC3FF).rand = none ∧
      (∃ t, exec (.rnd 3 0xFF) { lastFetch 0xC3FF with rand := some 0x5A } = .next t ∧ t.fault = none) ∧
      ∃ t, exec .ret { lastFetch 0x00EE with rand := some 0x5A } = .next t ∧ t.fault ≠ none :=
  ⟨rfl, ⟨_, rfl, rfl⟩, _, rfl, nofun⟩
/-- A state with a fault latched. -/
def faulted : State := after State.reset
theorem witness_faulted : faulted.fault ≠ none ∧ faulted.rand = none := by decide
theorem witness_StepWhileStopped :
    ({ State.reset with stopped := true } : State).stopped = true ∧
      ({ State.reset with stopped := true } : State).fault = none ∧ State.reset.rand = none := by decide
theorem witness_FetchOutOfBounds_FFF :
    ({ State.reset with pc := 0xFFF } : State).Running ∧ ({ State.reset with pc := 0xFFF } : State).pc.toNat = 0xFFF :=
  ⟨⟨rfl, rfl⟩, rfl⟩
theorem witness_FetchOutOfBounds_1000 :
    ({ State.reset with pc := 0x1000 } : State).Running ∧
      ({ State.reset with pc := 0x1000 } : State).pc.toNat ≥ 0x1000 := ⟨⟨rfl, rfl⟩, by decide⟩
theorem witness_IllegalWordFaults :
    (lastFetch 0xFFFF).Running ∧ (lastFetch 0xFFFF).CanFetch ∧
      (0xFFFF#16).toNat = ((lastFetch 0xFFFF).mem.read 0xFFE).toNat * 256 + ((lastFetch 0xFFFF).mem.read 0xFFF).toNat ∧
      decode 0xFFFF = none := ⟨⟨rfl, rfl⟩, by unfold State.CanFetch; decide, by decide, by decide⟩
theorem witness_FaultEntryIsAtomic : ∃ t, step State.reset = .next t ∧ t.fault ≠ State.reset.fault :=
  ⟨_, rfl, by decide⟩
theorem witness_LatchedFaultIsPermanent_call : ∃ t, hostCall .ackRedraw faulted = .accepted t := ⟨_, rfl⟩
/-- The three kinds of instruction of R147's rule: one that sets delay_t, one that sets sound_t, and another. -/
theorem witness_TimersTick_FX15 : let s := lastFetch 0xFF15
    s.Running ∧ s.CanFetch ∧ decode s.fetchWord = some (.ldDTVx 15) ∧ ∃ t, step s = .next t ∧ t.fault = none :=
  ⟨⟨rfl, rfl⟩, by unfold State.CanFetch; decide, by decide, _, rfl, by decide⟩
theorem witness_TimersTick_FX18 : let s := lastFetch 0xF018
    s.Running ∧ s.CanFetch ∧ decode s.fetchWord = some (.ldSTVx 0) ∧ ∃ t, step s = .next t ∧ t.fault = none :=
  ⟨⟨rfl, rfl⟩, by unfold State.CanFetch; decide, by decide, _, rfl, by decide⟩
theorem witness_BeepEnds : let s := { lastFetch 0x1000 with soundT := 1 }
    s.Running ∧ s.CanFetch ∧ decode s.fetchWord = some (.jp 0) ∧ s.soundT = 1 ∧
      ∃ t, step s = .next t ∧ t.fault = none :=
  ⟨⟨rfl, rfl⟩, by unfold State.CanFetch; decide, by decide, rfl, _, rfl, by decide⟩

/-! #### Control transfer and skips -/

theorem witness_Call_bounds : State.reset.sp.val < 16 ∧ ({ State.reset with sp := 15 } : State).sp.val < 16 ∧
    ({ State.reset with sp := 16 } : State).sp.val = 16 := by decide
theorem witness_Ret_bounds : ({ State.reset with sp := 1 } : State).sp.val = (0 : Fin 16).val + 1 ∧
    ({ State.reset with sp := 16 } : State).sp.val = (15 : Fin 16).val + 1 ∧ State.reset.sp.val = 0 := by decide
theorem witness_ReturnResumes :
    ∃ t, State.reset.sp.val = (0 : Fin 16).val ∧ exec (.call 0x300) State.reset = .next t := ⟨_, rfl, rfl⟩
theorem witness_ReturnResumes_last : let s := { State.reset with sp := 15 };
    ∃ t, s.sp.val = (15 : Fin 16).val ∧ exec (.call 0x300) s = .next t := ⟨_, rfl, rfl⟩
theorem witness_KeySkips_bounds :
    ((State.reset.writeV 1 0).readV 1).toNat = (0 : Fin 16).val ∧
      ((State.reset.writeV 1 15).readV 1).toNat = (15 : Fin 16).val ∧
      ((State.reset.writeV 1 16).readV 1).toNat > 15 := by decide

/-! #### The ALU, the draw -/

theorem witness_flagIntoAnotherRegister : (14 : Reg) ≠ Reg.vf := by decide
theorem witness_Rnd_host : ({ State.reset with rand := some 0xFF } : State).rand = some 0xFF ∧ State.reset.rand = none := by
  decide
theorem witness_Rnd_maskedBit : (0x7F#8)[(7 : Fin 8)] = false := by decide
theorem witness_OnlyRandom :
    (∀ x nn, Instr.cls ≠ .rnd x nn) ∧ ∃ t, exec .cls State.reset = .next t := ⟨nofun, _, rfl⟩

/-! #### Index and memory -/

theorem witness_Bcd_bounds : State.reset.mem.wf = true ∧ ({ State.reset with I := 0xFFD } : State).I.toNat + 2 < 4096 ∧
    ({ State.reset with I := 0xFFE } : State).I.toNat + 2 ≥ 4096 := by decide
theorem witness_Range_bounds : ({ State.reset with I := 0xFF0 } : State).I.toNat + (15 : Reg).val < 4096 ∧
    ({ State.reset with I := 0xFF1 } : State).I.toNat + (15 : Reg).val ≥ 4096 ∧ (0 : Reg) ≤ 15 := by decide
theorem witness_BoundsFault : let s := { State.reset with I := 0xFFF }
    s.fault = none ∧ (∃ t, exec (.loadRegs 1) s = .next t ∧ ∃ r, t.fault = some r ∧ r.cause = .dataOutOfBounds) ∧
      1 < bytesTouched (.loadRegs 1) ∧ s.I.toNat + 1 ≥ 4096 := ⟨rfl, ⟨_, rfl, _, rfl, rfl⟩, by decide, by decide⟩
theorem witness_StoredCode : let s := { State.reset with I := 0x202 }
    s.mem.wf = true ∧ (1 : Reg) ≠ 0 ∧ s.I.toNat + (1 : Reg).val < 4096 ∧ s.I = s.pc + 2 ∧
      ∃ t, exec (.storeRegs 1) s = .next t := ⟨rfl, by decide, by decide, by decide, _, rfl⟩

/-! #### The display -/

/-- Glyph 0 at I = 0, whose first row is 0xF0, drawn at (0, 0) or, with V1 = 62, past the right edge. -/
def glyphAt (p : EdgePolicy) (vx : Byte) : State := { State.reset.writeV 1 vx with edgePolicy := p }

theorem witness_SpriteHits : SpriteHits (glyphAt .wrap 0) 1 2 1 3 :=
  ⟨3, 0, ⟨0, 3, by decide, by decide, by decide, by decide, by decide⟩, rfl⟩
theorem witness_Sprite_noFault (x y : Reg) (n : BitVec 4) : ¬SpriteFaults (glyphAt .wrap 0) x y n := fun ⟨_, _, _, h⟩ => h
theorem witness_SpriteFaults : SpriteFaults (glyphAt .fault 62) 1 2 1 :=
  ⟨64, 0, ⟨0, 2, by decide, by decide, by decide, by decide, by decide⟩, show ¬(64 < 64 ∧ 0 < 32) by decide⟩
/-- The two outcomes of the flag: with N = 0 nothing is hit; with the hit cell on, one collides. -/
theorem witness_Draw_noHit (k : Fin 2048) : ¬SpriteHits (glyphAt .wrap 0) 1 2 0 k := fun ⟨_, _, ⟨r, _, h, _⟩, _⟩ =>
  Nat.not_lt_zero r h
theorem witness_Draw_collide : ∃ k, SpriteHits { glyphAt .wrap 0 with fb := Vector.replicate 32 8 } 1 2 1 k ∧
    Framebuffer.cell (Vector.replicate 32 8) k = true :=
  ⟨3, ⟨3, 0, ⟨0, 3, by decide, by decide, by decide, by decide, by decide⟩, rfl⟩, by decide⟩
theorem witness_Draw_bounds : ({ State.reset with I := 0xFF1 } : State).I.toNat + (15#4).toNat ≤ 4096 ∧
    ({ State.reset with I := 0xFF2 } : State).I.toNat + (15#4).toNat > 4096 ∧ (15#4) ≠ 0 := by decide
theorem witness_DrawTargetsAreDistinct :
    ∃ ts, collectTargets .wrap ((glyphAt .wrap 62).drawPixels 1 2 1) = some ts ∧ ts.length = 4 := ⟨_, rfl, rfl⟩
theorem witness_DrawingTwice : (1 : Reg) ≠ Reg.vf ∧ (2 : Reg) ≠ Reg.vf ∧ (glyphAt .wrap 0).fault = none ∧
    ∃ t, exec (.drw 1 2 1) (glyphAt .wrap 0) = .next t ∧ t.fault = none :=
  ⟨by decide, by decide, rfl, _, rfl, by decide⟩

/-! #### Timers, keys and the host -/

theorem witness_TimerInstructions : (∀ x : Reg, (lastFetch (encode (.ldVxDT x)).toNat).fetchWord = encode (.ldVxDT x)) ∧
    (∀ x : Reg, (lastFetch (encode (.ldDTVx x)).toNat).fetchWord = encode (.ldDTVx x)) ∧
    (∀ x : Reg, (lastFetch (encode (.ldSTVx x)).toNat).fetchWord = encode (.ldSTVx x)) := by decide +kernel
theorem witness_KeyWaitTransitions_enter :
    ∃ t, hostCall (.step 0) (start 0x200 0xFF0A []) = .accepted t ∧ (start 0x200 0xFF0A []).stopped = false ∧
      t.stopped = true := ⟨_, rfl, rfl, rfl⟩
theorem witness_KeyWaitTransitions_leave : let s := { State.reset with stopped := true }
    ∃ t, hostCall (.handleInput (.down 15)) s = .accepted t ∧ s.stopped = true ∧ t.stopped = false := ⟨_, rfl, rfl, rfl⟩
theorem witness_KeyDown_bounds : State.reset.fault = none ∧ (15 : Nat) < 16 ∧ 16 ≤ (16 : Nat) := by decide
theorem witness_KeyUp_bounds : State.reset.fault = none ∧ (0 : Nat) < 16 ∧ (15 : Nat) < 16 ∧ 16 ≤ (16 : Nat) := by decide
theorem witness_Load_bounds : State.reset.mem.wf = true ∧ State.reset.fault = none ∧
    (List.replicate 3584 (0 : Byte)).length ≤ 3584 ∧ 3584 < (List.replicate 3585 (0 : Byte)).length := by
  simp only [List.length_replicate]; decide

/-! #### Who writes what, reset and the invariant -/

theorem witness_RegisterWriters : (14 : Reg) ∉ mayWrite (.addReg 0 1) ∧ ∃ t, exec (.addReg 0 1) State.reset = .next t :=
  ⟨by decide, _, rfl⟩
theorem witness_IndexStackAndKeypadWriters : (∀ nnn, Instr.cls ≠ .ldI nnn) ∧ (∀ x, Instr.cls ≠ .addI x) ∧
    (∀ x, Instr.cls ≠ .ldF x) ∧ (∀ nnn, Instr.cls ≠ .call nnn) ∧ Instr.cls ≠ .ret ∧
    ∃ t, exec .cls State.reset = .next t := ⟨nofun, nofun, nofun, nofun, nofun, _, rfl⟩
theorem witness_MemoryAndDisplayWriters : let s := { State.reset with redraw := true }
    (∀ x, Instr.ret ≠ .ldB x) ∧ (∀ x, Instr.ret ≠ .storeRegs x) ∧ Instr.ret ≠ .cls ∧ (∀ x y n, Instr.ret ≠ .drw x y n) ∧
      s.redraw = true ∧ ∃ t, exec .ret s = .next t := ⟨nofun, nofun, nofun, nofun, rfl, _, rfl⟩
theorem witness_ResetDefaults_bounds :
    (0x050 : Nat) ≤ 0x050 ∧ (0x050 : Nat) ≤ 0xFFF ∧ (0xFFF : Nat) ≤ 0xFFF := by decide
theorem witness_Construction_bound : (80 : Nat) ≤ 80 := by decide
theorem witness_CanonicalMemories : Memory.wf [(0x200, 1)] = true := by decide
/-- Every reset state with one word loaded at pc meets the invariant. -/
theorem inv_start (w : Nat) (p : Word) (hp : p.toNat ≤ 0xFFE) : (start p w []).Inv := by
  have hf : ({ State.reset with pc := p } : State).fetchFault = none := fetchFault_eq_none.2 (by
    unfold State.CanFetch; simp only [Config.memSize]; omega)
  have hpc : (start p w []).pc = p := by
    simp [start, State.withFetchWord, hf, State.placeWord, State.setMem]
  refine ⟨?_, by rw [hpc]; omega, ?_, ?_⟩
  · simp only [start, List.foldl_nil, State.withFetchWord, hf, State.placeWord, State.setMem]
    exact Memory.writeBytes_wf _ rfl (by simp [bytesOfWord, Config.memSize]; omega)
  · intro k; simp [start, State.withFetchWord, State.placeWord, State.setMem, State.reset]
  · intro r h; simp [start, State.withFetchWord, State.placeWord, State.setMem] at h
theorem witness_StepKeepsTheInvariant : (lastFetch 0x2000).Inv ∧ ∃ t, step (lastFetch 0x2000) = .next t :=
  ⟨inv_start _ _ (by decide), _, rfl⟩
/-- One accepted call of each kind, from a state that meets the invariant. -/
theorem witness_HostCallsKeepTheInvariant : let s := lastFetch 0x2000
    s.Inv ∧ (∃ t, hostCall (.step 0xFF) s = .accepted t) ∧ (∃ t, hostCall (.load [0x12, 0x00]) s = .accepted t) ∧
      (∃ t, hostCall (.handleInput (.down 15)) s = .accepted t) ∧
      (∃ t, hostCall (.handleInput (.up 0)) s = .accepted t) ∧ ∃ t, hostCall .ackRedraw s = .accepted t :=
  ⟨inv_start _ _ (by decide), ⟨_, rfl⟩, ⟨_, rfl⟩, ⟨_, rfl⟩, ⟨_, rfl⟩, _, rfl⟩
theorem witness_Reachable : Reachable (State.construct Config.default) := .construct _
theorem witness_PcSumsNeverWrap_advance : let s := lastFetch 0x6000
    s.Inv ∧ s.Running ∧ s.CanFetch ∧ decode s.fetchWord = some (.ldByte 0 0) ∧ ∃ t, step s = .next t ∧ t.fault = none :=
  ⟨inv_start _ _ (by decide), ⟨rfl, rfl⟩, by unfold State.CanFetch; decide, by decide, _, rfl, by decide⟩
/-- A return to the highest address the stack can hold, from the full stack. -/
def lastReturn : State := { lastFetch 0x00EE with sp := 16, stack := Vector.replicate 16 0xFFE }
theorem inv_lastReturn : lastReturn.Inv :=
  have h : (lastFetch 0x00EE).Inv := inv_start _ _ (by decide)
  ⟨h.memCanonical, h.pcBound, by decide, h.faultRecord⟩
theorem witness_PcSumsNeverWrap_ret : lastReturn.Inv ∧ lastReturn.Running ∧ lastReturn.CanFetch ∧
    decode lastReturn.fetchWord = some .ret ∧ (∃ t, step lastReturn = .next t ∧ t.fault = none ∧ t.pc = 0x1000) :=
  ⟨inv_lastReturn, ⟨rfl, rfl⟩, by unfold State.CanFetch; decide, by decide, _, rfl, by decide, by decide⟩
/-- The largest sum of BNNN, and a call. -/
theorem witness_PcSumsNeverWrap_jpV0 : let s := (lastFetch 0xBFFF).writeV 0 0xFF
    s.Inv ∧ s.Running ∧ s.CanFetch ∧ decode s.fetchWord = some (.jpV0 0xFFF) ∧
      ∃ t, step s = .next t ∧ t.fault = none ∧ t.pc = 0x10FE :=
  have h : (lastFetch 0xBFFF).Inv := inv_start _ _ (by decide)
  ⟨⟨h.memCanonical, h.pcBound, h.stackBound, h.faultRecord⟩, ⟨rfl, rfl⟩, by unfold State.CanFetch; decide, by decide,
    _, rfl, by decide, by decide⟩
theorem witness_PcSumsNeverWrap_call : let s := lastFetch 0x2FFF
    s.Inv ∧ s.Running ∧ s.CanFetch ∧ decode s.fetchWord = some (.call 0xFFF) ∧
      ∃ t, step s = .next t ∧ t.fault = none :=
  ⟨inv_start _ _ (by decide), ⟨rfl, rfl⟩, by unfold State.CanFetch; decide, by decide, _, rfl, by decide⟩

end Sys2Proof.Machine.Tests
end

section
/-! PROOF. The registers in the reset state. -/

namespace Sys2Proof.Machine

/-- Every V register reads 0 after reset (10_state.md R35). -/
@[simp] theorem State.readV_reset (r : Reg) : State.reset.readV r = 0 :=
  Vector.getElem_replicate r.isLt

/-- Settles O51: the V registers by `State.readV_reset`; I and pc are fields of the reset state. -/
theorem resetRegisters : Obligations.ResetRegisters :=
  ⟨State.readV_reset, rfl, rfl⟩

end Sys2Proof.Machine
end

section
/-! PROOF. The host call `load`: what memory holds after a write of several bytes, inside and outside the range, and
the two outcomes of the call. -/

namespace Sys2Proof.Machine

/-- Inside the written range: the k-th address reads as the k-th byte. -/
theorem Memory.read_writeBytes_inside {m : Memory} (h : m.wf = true) {a : Nat} {bs : List Byte}
    (ha : a + bs.length ≤ Config.memSize) {k : Nat} (hk : k < bs.length) :
    (m.writeBytes a bs).read (a + k) = bs[k] := by
  rw [Memory.read_writeBytes h ha, if_pos (Nat.le_add_right a k), Nat.add_sub_cancel_left, List.getD_eq_getElem _ _ hk]

/-- Outside the written range: every address reads as before. -/
theorem Memory.read_writeBytes_outside {m : Memory} (h : m.wf = true) {a : Nat} {bs : List Byte}
    (ha : a + bs.length ≤ Config.memSize) {c : Nat} (hc : c < a ∨ a + bs.length ≤ c) :
    (m.writeBytes a bs).read c = m.read c := by
  rw [Memory.read_writeBytes h ha]
  obtain hbelow | habove := hc
  · exact if_neg (by omega)
  · rw [if_pos (by omega), List.getD_eq_default _ _ (by omega)]

/-- An image that fits is accepted when no fault is latched, and only memory changes (R95). -/
theorem load_of_fits {bytes : List Byte} {s : State} (hs : s.fault = none) (hfit : bytes.length ≤ Config.loadMax) :
    load bytes s = .accepted (s.setMem (s.mem.writeBytes Config.progStart bytes)) := by
  simp [load, imageFits, hs, hfit]

/-- An image longer than LOAD_MAX is rejected in every state (R95). -/
theorem load_of_tooLong {bytes : List Byte} (s : State) (hlong : Config.loadMax < bytes.length) :
    load bytes s = .rejected := by
  simp [load, imageFits, hlong]

/-- Settles O47: `load_of_fits` with the reads after the write, and `load_of_tooLong`; LOAD_MAX is what keeps
the copy below MEM_SIZE. -/
theorem loadCopiesTheImage : Obligations.LoadCopiesTheImage := by
  intro bytes s hmem hs
  refine ⟨fun hfit => ?_, fun hlong => load_of_tooLong s hlong⟩
  have hend : Config.progStart + bytes.length ≤ Config.memSize := Nat.add_le_add_left hfit 0x200
  exact ⟨_, load_of_fits hs hfit, fun _ hk => Memory.read_writeBytes_inside hmem hend hk,
    fun _ hb => Memory.read_writeBytes_outside hmem hend hb, rfl⟩

end Sys2Proof.Machine
end

section
/-! PROOF. The decoder read row by row (30_encoding.md R118, R120): one equation of `decode` for each op nibble, the
rows of the secondary dispatches by mask, and the words that no row covers. -/

namespace Sys2Proof

variable {w : Word}

/-! ### The equation of `decode` for each op nibble -/

theorem decode_eq_decodeZero (h : opField w = 0x0) : decode w = decodeZero w := by simp [decode, h]
theorem decode_eq_jp (h : opField w = 0x1) : decode w = some (.jp (nnnField w)) := by simp [decode, h]
theorem decode_eq_call (h : opField w = 0x2) : decode w = some (.call (nnnField w)) := by simp [decode, h]
theorem decode_eq_seByte (h : opField w = 0x3) : decode w = some (.seByte (xField w) (nnField w)) := by
  simp [decode, h]
theorem decode_eq_sneByte (h : opField w = 0x4) : decode w = some (.sneByte (xField w) (nnField w)) := by
  simp [decode, h]
theorem decode_eq_seReg (h : opField w = 0x5) :
    decode w = if nField w = 0 then some (.seReg (xField w) (yField w)) else none := by simp [decode, h]
theorem decode_eq_ldByte (h : opField w = 0x6) : decode w = some (.ldByte (xField w) (nnField w)) := by
  simp [decode, h]
theorem decode_eq_addByte (h : opField w = 0x7) : decode w = some (.addByte (xField w) (nnField w)) := by
  simp [decode, h]
theorem decode_eq_decodeAlu (h : opField w = 0x8) :
    decode w = decodeAlu (xField w) (yField w) (nField w).toNat := by simp [decode, h]
theorem decode_eq_sneReg (h : opField w = 0x9) :
    decode w = if nField w = 0 then some (.sneReg (xField w) (yField w)) else none := by simp [decode, h]
theorem decode_eq_ldI (h : opField w = 0xA) : decode w = some (.ldI (nnnField w)) := by simp [decode, h]
theorem decode_eq_jpV0 (h : opField w = 0xB) : decode w = some (.jpV0 (nnnField w)) := by simp [decode, h]
theorem decode_eq_rnd (h : opField w = 0xC) : decode w = some (.rnd (xField w) (nnField w)) := by simp [decode, h]
theorem decode_eq_drw (h : opField w = 0xD) : decode w = some (.drw (xField w) (yField w) (nField w)) := by
  simp [decode, h]
theorem decode_eq_decodeKey (h : opField w = 0xE) : decode w = decodeKey (xField w) (nnField w).toNat := by
  simp [decode, h]
theorem decode_eq_decodeMisc (h : opField w = 0xF) : decode w = decodeMisc (xField w) (nnField w).toNat := by
  simp [decode, h]

/-! ### The rows of the secondary dispatches, by mask and match -/

theorem decode_aluRow (n : BitVec 4) (h : w &&& 0xF00F = 0x8#4 ++ (0#8 ++ n)) :
    decode w = decodeAlu (xField w) (yField w) n.toNat := by
  obtain ⟨hop, rfl⟩ := and_maskXYF.mp h
  exact decode_eq_decodeAlu hop

theorem decode_keyRow (nn : Byte) (h : w &&& 0xF0FF = 0xE#4 ++ (0#4 ++ nn)) :
    decode w = decodeKey (xField w) nn.toNat := by
  obtain ⟨hop, rfl⟩ := and_maskXFF.mp h
  exact decode_eq_decodeKey hop

theorem decode_miscRow (nn : Byte) (h : w &&& 0xF0FF = 0xF#4 ++ (0#4 ++ nn)) :
    decode w = decodeMisc (xField w) nn.toNat := by
  obtain ⟨hop, rfl⟩ := and_maskXFF.mp h
  exact decode_eq_decodeMisc hop

/-! ### The illegal words of each dispatch (R120) -/

theorem decodeZero_eq_none (hcls : w ≠ 0x00E0) (hret : w ≠ 0x00EE) : decodeZero w = none := by
  rw [decodeZero, if_neg hcls, if_neg hret]

theorem decodeAlu_eq_none (x y : Reg) {n : BitVec 4} (h : n ∈ [0x8#4, 0x9#4, 0xA#4, 0xB#4, 0xC#4, 0xD#4, 0xF#4]) :
    decodeAlu x y n.toNat = none := by
  simp only [List.mem_cons, List.not_mem_nil, or_false] at h
  obtain rfl | rfl | rfl | rfl | rfl | rfl | rfl := h <;> rfl

theorem decodeKey_eq_none (x : Reg) {nn : Byte} (h : nn ∉ [0x9E#8, 0xA1#8]) : decodeKey x nn.toNat = none := by
  unfold decodeKey
  split
  case h_3 => rfl
  all_goals next hnn => exact absurd (by simp [BitVec.toNat_eq, hnn]) h

theorem decodeMisc_eq_none (x : Reg) {nn : Byte}
    (h : nn ∉ [0x07#8, 0x0A#8, 0x15#8, 0x18#8, 0x1E#8, 0x29#8, 0x33#8, 0x55#8, 0x65#8]) :
    decodeMisc x nn.toNat = none := by
  unfold decodeMisc
  split
  case h_10 => rfl
  all_goals next hnn => exact absurd (by simp [BitVec.toNat_eq, hnn]) h

/-- Settles O3: the operands are the decoder's own fields, and each row is the equation of its op nibble or the row of
its secondary dispatch. -/
theorem decodeFollowsOpcodeMap : Obligations.DecodeFollowsOpcodeMap := by
  intro w x y n nn nnn hx hy hn hnn hnnn
  obtain rfl : x = xField w := Fin.ext (hx.trans (xField_val w).symm)
  obtain rfl : y = yField w := Fin.ext (hy.trans (yField_val w).symm)
  obtain rfl : n = nField w := BitVec.eq_of_toNat_eq (hn.trans (nField_toNat w).symm)
  obtain rfl : nn = nnField w := BitVec.eq_of_toNat_eq (hnn.trans (nnField_toNat w).symm)
  obtain rfl : nnn = nnnField w := BitVec.eq_of_toNat_eq (hnnn.trans (nnnField_toNat w).symm)
  have op {op : BitVec 4} : w &&& 0xF000 = op ++ 0#12 → opField w = op := and_maskOp.mp
  exact ⟨
    -- op 0
    fun h => h ▸ rfl, fun h => h ▸ rfl,
    fun h hcls hret => (decode_eq_decodeZero (op h)).trans (decodeZero_eq_none hcls hret),
    -- ops 1 to 7
    fun h => decode_eq_jp (op h), fun h => decode_eq_call (op h), fun h => decode_eq_seByte (op h),
    fun h => decode_eq_sneByte (op h), fun h => decode_eq_seReg (op h), fun h => decode_eq_ldByte (op h),
    fun h => decode_eq_addByte (op h),
    -- op 8, on N
    decode_aluRow 0x0, decode_aluRow 0x1, decode_aluRow 0x2, decode_aluRow 0x3, decode_aluRow 0x4, decode_aluRow 0x5,
    decode_aluRow 0x6, decode_aluRow 0x7, decode_aluRow 0xE,
    fun h hn => (decode_eq_decodeAlu (op h)).trans (decodeAlu_eq_none _ _ hn),
    -- ops 9 to D
    fun h => decode_eq_sneReg (op h), fun h => decode_eq_ldI (op h), fun h => decode_eq_jpV0 (op h),
    fun h => decode_eq_rnd (op h), fun h => decode_eq_drw (op h),
    -- op E, on NN
    decode_keyRow 0x9E, decode_keyRow 0xA1,
    fun h hnn => (decode_eq_decodeKey (op h)).trans (decodeKey_eq_none _ hnn),
    -- op F, on NN
    decode_miscRow 0x07, decode_miscRow 0x0A, decode_miscRow 0x15, decode_miscRow 0x18, decode_miscRow 0x1E,
    decode_miscRow 0x29, decode_miscRow 0x33, decode_miscRow 0x55, decode_miscRow 0x65,
    fun h hnn => (decode_eq_decodeMisc (op h)).trans (decodeMisc_eq_none _ hnn)⟩

end Sys2Proof
end

section
/-! PROOF. The step on an illegal word. -/

namespace Sys2Proof.Machine

/-- A word with the value of the two bytes at pc, big-endian, is the word fetched (20_memory.md R82). -/
theorem State.fetchWord_eq_of_toNat {s : State} {w : Word}
    (h : w.toNat = (s.mem.read s.pc.toNat).toNat * 256 + (s.mem.read (s.pc.toNat + 1)).toNat) : s.fetchWord = w :=
  BitVec.eq_of_toNat_eq ((fetchWord_toNat s).trans h.symm)

/-- Settles O10: the word at pc is the one `step` fetches, and `step_of_illegal` says what it does with it. -/
theorem illegalWordFaults : Obligations.IllegalWordFaults := by
  intro s w hrun hfetch hw hillegal
  obtain rfl : s.fetchWord = w := State.fetchWord_eq_of_toNat hw
  exact step_of_illegal hrun hfetch hillegal

end Sys2Proof.Machine
end

section
/-! PROOF. What every handler leaves in the two timers, and the tick at the end of an executed step. -/

namespace Sys2Proof.Machine

/-- What `delay_t` holds as the step of `i` from `s` reaches its tick: FX15 has set it (46_timers_keypad.md R312). -/
def State.delayBeforeTick (s : State) : Instr → Byte
  | .ldDTVx x => s.readV x
  | _ => s.delayT

/-- What `sound_t` holds as the step of `i` from `s` reaches its tick: FX18 has set it (R314). -/
def State.soundBeforeTick (s : State) : Instr → Byte
  | .ldSTVx x => s.readV x
  | _ => s.soundT

/-- Every handler leaves these values in the timers, also where it latches a fault: FX15 and FX18, which write a timer,
never fault. -/
theorem exec_timers (i : Instr) (s : State) :
    ∃ t, exec i s = .next t ∧ t.delayT = s.delayBeforeTick i ∧ t.soundT = s.soundBeforeTick i := by
  cases i with
  | ret =>
    by_cases h : s.sp.val = 0
    · exact ⟨_, execRet_empty h, rfl, rfl⟩
    · exact ⟨_, execRet_pop ⟨s.sp.val - 1, by omega⟩ (by simp only; omega), rfl, rfl⟩
  | call nnn =>
    by_cases h : s.sp.val < 16
    · exact ⟨_, execCall_push nnn h, rfl, rfl⟩
    · exact ⟨_, execCall_full nnn (by omega), rfl, rfl⟩
  | drw x y n =>
    by_cases h : s.DataInBounds n.toNat
    · cases ht : collectTargets s.edgePolicy (s.drawPixels x y n) with
      | none => exact ⟨_, execDrw_offScreen x y n h ht, rfl, rfl⟩
      | some ts => exact ⟨_, execDrw_draws x y n h ht, rfl, rfl⟩
    · exact ⟨_, execDrw_outOfBounds x y n h, rfl, rfl⟩
  | skp x =>
    by_cases h : (s.readV x).toNat > 15
    · exact ⟨_, execSkp_noKey x h, rfl, rfl⟩
    · exact ⟨_, execSkp_key x (k := ⟨(s.readV x).toNat, by omega⟩) rfl, rfl, rfl⟩
  | sknp x =>
    by_cases h : (s.readV x).toNat > 15
    · exact ⟨_, execSknp_noKey x h, rfl, rfl⟩
    · exact ⟨_, execSknp_key x (k := ⟨(s.readV x).toNat, by omega⟩) rfl, rfl, rfl⟩
  | ldB x =>
    by_cases h : s.DataInBounds 3
    · exact ⟨_, execLdB_inBounds x h, rfl, rfl⟩
    · exact ⟨_, execLdB_outOfBounds x h, rfl, rfl⟩
  | storeRegs x =>
    by_cases h : s.DataInBounds (rangeSize x)
    · exact ⟨_, execStoreRegs_inBounds x h, rfl, rfl⟩
    · exact ⟨_, execStoreRegs_outOfBounds x h, rfl, rfl⟩
  | loadRegs x =>
    by_cases h : s.DataInBounds (rangeSize x)
    · exact ⟨_, execLoadRegs_inBounds x h, rfl, rfl⟩
    · exact ⟨_, execLoadRegs_outOfBounds x h, rfl, rfl⟩
  | _ => exact ⟨_, rfl, rfl, rfl⟩

/-- A step that ends without a fault ends with the tick: the handler had latched none. -/
theorem eq_finishStep_of_afterExec {t u : State} (h : afterExec (.next u) = .next t) (ht : t.fault = none) :
    t = u.finishStep := by
  by_cases hu : u.fault = none
  · rw [afterExec_of_noFault hu] at h
    exact (Host.Outcome.next.inj h).symm
  · rw [afterExec_of_fault hu] at h
    exact absurd (Host.Outcome.next.inj h ▸ ht) hu

/-- Settles O14: the handler leaves the timers as `exec_timers` says, and the step that latches no fault counts both
down once. -/
theorem timersTickOncePerExecutedStep : Obligations.TimersTickOncePerExecutedStep := by
  intro s t i hrun hfetch hdecode hstep hfault
  obtain ⟨u, hexec, hdelay, hsound⟩ := exec_timers i s
  rw [step_of_decode hrun hfetch hdecode, hexec] at hstep
  obtain rfl : t = u.finishStep := eq_finishStep_of_afterExec hstep hfault
  rw [finishStep_delayT, finishStep_soundT, countDown_toNat, countDown_toNat, hdelay, hsound]
  cases i <;> exact ⟨rfl, rfl⟩

end Sys2Proof.Machine
end

section
/-! PROOF. The step that executes nothing: while the core is stopped, and on a fetch out of bounds. -/

namespace Sys2Proof.Machine

@[simp] theorem setRand_setRand (s : State) (p q : Option Byte) : (s.setRand p).setRand q = s.setRand q := rfl

/-- Emptying the draw port of a state whose port is empty changes nothing. -/
theorem setRand_none_of_rand {s : State} (h : s.rand = none) : s.setRand none = s := by
  rw [← h]
  rfl

/-- A step that changes nothing is a call `step(rand)` that changes nothing. -/
theorem stepWith_of_noOp {s : State} {rand : Byte} (hport : s.rand = none)
    (hstep : step (s.setRand (some rand)) = .next (s.setRand (some rand))) : stepWith rand s = .next s := by
  rw [stepWith, hstep, mapNext, setRand_setRand, setRand_none_of_rand hport]

/-- Settles O8: `step_of_stopped`, for the step itself and for the step inside the call. -/
theorem stepWhileStoppedIsNoOp : Obligations.StepWhileStoppedIsNoOp := by
  intro s hstopped
  exact ⟨step_of_stopped hstopped, fun _ hport => stepWith_of_noOp hport (step_of_stopped hstopped)⟩

/-- The first address out of range of a fetch at pc ≥ 0xFFF (40_step_cycle.md R142). -/
theorem fetchFault_of_pc_ge {s : State} (h : s.pc.toNat ≥ 0xFFF) :
    s.fetchFault = some (if s.pc.toNat = 0xFFF then 0x1000 else s.pc.toNat) := by
  rw [fetchFault_eq_some, State.CanFetch]
  simp only [Config.memSize]
  split <;> split <;> omega

/-- Settles O9: `fetchFault_of_pc_ge` gives the address, and `step_of_fetchFault` says what the step latches. -/
theorem fetchOutOfBoundsFaults : Obligations.FetchOutOfBoundsFaults := by
  intro s hrun hpc
  exact step_of_fetchFault hrun (fetchFault_of_pc_ge hpc)

end Sys2Proof.Machine
end

section
/-! PROOF. Control transfer (41_control_transfer.md): the encodings of the four instructions, the frames of a new pc and
of a new stack, and the outcomes of jump, call and return. -/

namespace Sys2Proof.Machine

/-! ### The encodings -/

theorem encodedAs_ret : EncodedAs .ret 0xFFFF 0x00EE := ⟨by decide, by decide⟩

theorem encodedAs_jp (nnn : BitVec 12) : EncodedAs (.jp nnn) 0xF000 0x1000 :=
  ⟨encNNN_and_mask 0x1 nnn, by simp [encode, decode_eq_jp]⟩

theorem encodedAs_call (nnn : BitVec 12) : EncodedAs (.call nnn) 0xF000 0x2000 :=
  ⟨encNNN_and_mask 0x2 nnn, by simp [encode, decode_eq_call]⟩

theorem encodedAs_jpV0 (nnn : BitVec 12) : EncodedAs (.jpV0 nnn) 0xF000 0xB000 :=
  ⟨encNNN_and_mask 0xB nnn, by simp [encode, decode_eq_jpV0]⟩

/-! ### The frames -/

/-- A new pc changes nothing but the pc. -/
theorem changesOnlyRegs_setPc (s : State) (target : Word) : ChangesOnlyRegs [] s (s.setPc target) :=
  ⟨fun _ _ => rfl, rfl, fun _ => rfl, ⟨rfl, rfl⟩, ⟨rfl, rfl⟩, ⟨fun _ => rfl, rfl⟩, ⟨rfl, rfl, rfl⟩, rfl, rfl, rfl, rfl⟩

/-- New stack entries, a new SP and a new pc change nothing else. -/
theorem changesOnlyStack_setPc (s : State) (entries : Vector Word 16) (sp : Fin 17) (target : Word) :
    ChangesOnlyStack s ({ s with stack := entries, sp := sp }.setPc target) :=
  ⟨fun _ _ => rfl, rfl, fun _ => rfl, ⟨rfl, rfl⟩, ⟨fun _ => rfl, rfl⟩, ⟨rfl, rfl, rfl⟩, rfl, rfl, rfl, rfl⟩

/-! ### The values -/

/-- The sum of BNNN is at most 0x10FE, so it does not wrap (R166). -/
theorem zext16_add_byte_toNat (nnn : BitVec 12) (b : Byte) :
    (zext16 nnn + b.setWidth 16).toNat = nnn.toNat + b.toNat := by
  have hb : (b.setWidth 16).toNat = b.toNat := BitVec.toNat_setWidth_of_le (by decide)
  rw [BitVec.toNat_add_of_lt (by rw [zext16_toNat, hb]; omega), zext16_toNat, hb]

/-- The entry SP holds the pushed address; every other entry is as before (10_state.md R46). -/
theorem getElem_pushedStack {s : State} (h : s.sp.val < 16) (k : Fin 16) :
    (s.stack.set s.sp.val s.pc h)[k] = if k.val = s.sp.val then s.pc else s.stack[k] := by
  simp only [Fin.getElem_fin, Vector.getElem_set, eq_comm]

/-! ### The statements -/

/-- Settles O16: each jump is `setPc`, and the sum of BNNN is exact by `zext16_add_byte_toNat`. -/
theorem jumpsSetPc : Obligations.JumpsSetPc := by
  intro nnn s
  exact ⟨encodedAs_jp nnn, encodedAs_jpV0 nnn,
    ⟨_, rfl, zext16_toNat nnn, changesOnlyRegs_setPc s _⟩,
    ⟨_, rfl, zext16_add_byte_toNat nnn (s.readV 0), changesOnlyRegs_setPc s _⟩⟩

/-- Settles O17: `execCall_push` while an entry is free, `execCall_full` when none is. -/
theorem callPushesItsAddress : Obligations.CallPushesItsAddress := by
  intro nnn s
  refine ⟨encodedAs_call nnn, fun hfree => ?_, fun hfull => execCall_full nnn hfull⟩
  exact ⟨_, execCall_push nnn hfree, zext16_toNat nnn, rfl, getElem_pushedStack hfree, changesOnlyStack_setPc s _ _ _⟩

/-- Settles O18: `execRet_pop` while an entry is live, `execRet_empty` when none is. -/
theorem returnPopsTheAddress : Obligations.ReturnPopsTheAddress := by
  intro s
  refine ⟨encodedAs_ret, fun k hlive => ?_, fun hempty => execRet_empty hempty⟩
  exact ⟨_, execRet_pop k hlive, rfl, rfl, rfl, changesOnlyStack_setPc s _ _ _⟩

end Sys2Proof.Machine
end

section
/-! PROOF. The conditional skips on registers and immediates (42_skip.md): their encodings, and the one outcome of the
operation `skipIf` that all four share. -/

namespace Sys2Proof.Machine

/-! ### The encodings -/

theorem encodedAs_seByte (x : Reg) (nn : Byte) : EncodedAs (.seByte x nn) 0xF000 0x3000 :=
  ⟨encXNN_and_mask 0x3 x nn, by simp [encode, decode_eq_seByte]⟩

theorem encodedAs_sneByte (x : Reg) (nn : Byte) : EncodedAs (.sneByte x nn) 0xF000 0x4000 :=
  ⟨encXNN_and_mask 0x4 x nn, by simp [encode, decode_eq_sneByte]⟩

theorem encodedAs_seReg (x y : Reg) : EncodedAs (.seReg x y) 0xF00F 0x5000 :=
  ⟨encXYN_and_maskXYF 0x5 x y 0x0, by simp [encode, decode_eq_seReg]⟩

theorem encodedAs_sneReg (x y : Reg) : EncodedAs (.sneReg x y) 0xF00F 0x9000 :=
  ⟨encXYN_and_maskXYF 0x9 x y 0x0, by simp [encode, decode_eq_sneReg]⟩

/-! ### The skip -/

/-- Moving on by k bytes changes nothing but the pc. -/
theorem changesOnlyRegs_advance (s : State) (k : Nat) : ChangesOnlyRegs [] s (s.advance k) :=
  changesOnlyRegs_setPc s _

/-- A skip whose test decides `p` goes over the next instruction exactly when `p` holds, and does nothing else. -/
theorem skipIf_completes {c : Bool} {p : Prop} [Decidable p] (hc : c = true ↔ p) (s : State) :
    ∃ t, skipIf c s = .next t ∧ t.pc = s.pc + (if p then 4 else 2) ∧ ChangesOnlyRegs [] s t := by
  refine ⟨_, rfl, ?_, changesOnlyRegs_advance s _⟩
  by_cases hp : p
  · rw [hc.mpr hp, if_pos hp]
    rfl
  · rw [Bool.eq_false_iff.mpr (mt hc.mp hp), if_neg hp]
    rfl

/-! ### The statement -/

/-- Settles O20: each of the four is `skipIf` with its own test, so `skipIf_completes` gives its outcome. -/
theorem skipsAdvanceByFourOrTwo : Obligations.SkipsAdvanceByFourOrTwo := by
  intro x y nn s
  exact ⟨encodedAs_seByte x nn, encodedAs_sneByte x nn, encodedAs_seReg x y, encodedAs_sneReg x y,
    skipIf_completes beq_iff_eq s, skipIf_completes bne_iff_ne s,
    skipIf_completes beq_iff_eq s, skipIf_completes bne_iff_ne s⟩

end Sys2Proof.Machine
end

section
/-! PROOF. The register and ALU instructions (43_alu.md): their encodings, the outcomes of the two operations that write
a result, and the numbers that bytes and flags stand for. -/

namespace Sys2Proof.Machine

/-! ### The encodings -/

theorem encodedAs_ldByte (x : Reg) (nn : Byte) : EncodedAs (.ldByte x nn) 0xF000 0x6000 :=
  ⟨encXNN_and_mask 0x6 x nn, by simp [encode, decode_eq_ldByte]⟩

theorem encodedAs_addByte (x : Reg) (nn : Byte) : EncodedAs (.addByte x nn) 0xF000 0x7000 :=
  ⟨encXNN_and_mask 0x7 x nn, by simp [encode, decode_eq_addByte]⟩

/-- An instruction 8XYn is encoded as the row n of op 8 when that row of the dispatch names it. -/
theorem encodedAs_aluRow {i : Instr} {x y : Reg} (n : BitVec 4) (hencode : encode i = encXYN 0x8 x y n)
    (hrow : decodeAlu x y n.toNat = some i) : EncodedAs i 0xF00F (0x8#4 ++ (0#8 ++ n)) := by
  rw [EncodedAs, hencode]
  refine ⟨encXYN_and_maskXYF 0x8 x y n, ?_⟩
  rw [decode_eq_decodeAlu (opField_encXYN _ _ _ _), xField_encXYN, yField_encXYN, nField_encXYN, hrow]

/-! ### The results -/

/-- Writing one register changes nothing but that register. -/
theorem changesOnlyRegs_writeV (s : State) (x : Reg) (b : Byte) (k : Nat) :
    ChangesOnlyRegs [x] s ((s.writeV x b).advance k) :=
  ⟨fun _ hr => readV_writeV_ne s b (List.ne_of_not_mem_cons hr), rfl, fun _ => rfl, ⟨rfl, rfl⟩, ⟨rfl, rfl⟩,
    ⟨fun _ => rfl, rfl⟩, ⟨rfl, rfl, rfl⟩, rfl, rfl, rfl, rfl⟩

/-- Writing one register and then VF changes nothing but the two. -/
theorem changesOnlyRegs_writeV_setFlag (s : State) (x : Reg) (b : Byte) (flag : Bool) (k : Nat) :
    ChangesOnlyRegs [x, Reg.vf] s (((s.writeV x b).setFlag flag).advance k) := by
  refine ⟨fun r hr => ?_, rfl, fun _ => rfl, ⟨rfl, rfl⟩, ⟨rfl, rfl⟩, ⟨fun _ => rfl, rfl⟩, ⟨rfl, rfl, rfl⟩, rfl, rfl, rfl,
    rfl⟩
  obtain ⟨hx, hvf⟩ : r ≠ x ∧ r ≠ Reg.vf := by simpa using hr
  rw [advance_readV, readV_setFlag, if_neg hvf, readV_writeV_ne s b hx]

/-- The operation without a flag: VX is the result. -/
theorem writeResult_completes (x : Reg) (b : Byte) (s : State) :
    ∃ t, writeResult x b s = .next t ∧ t.readV x = b ∧ t.pc = s.pc + 2 ∧ ChangesOnlyRegs [x] s t :=
  ⟨_, rfl, readV_writeV_self s x b, rfl, changesOnlyRegs_writeV s x b 2⟩

/-- The operation with a flag: VF is written last, so it is the flag also when X is F, and VX is the result when X is
another register (10_state.md R33). -/
theorem writeResultAndFlag_completes (x : Reg) (b : Byte) (flag : Bool) (s : State) :
    ∃ t, writeResultAndFlag x b flag s = .next t ∧ (x ≠ Reg.vf → t.readV x = b) ∧ t.readV Reg.vf = flagByte flag ∧
      t.pc = s.pc + 2 ∧ ChangesOnlyRegs [x, Reg.vf] s t := by
  refine ⟨_, rfl, fun hx => ?_, ?_, rfl, changesOnlyRegs_writeV_setFlag s x b flag 2⟩
  · rw [advance_readV, readV_setFlag, if_neg hx, readV_writeV_self]
  · rw [advance_readV, readV_setFlag, if_pos rfl]

/-! ### The values -/

theorem flagByte_toNat (b : Bool) : (flagByte b).toNat = b.toNat := by cases b <;> rfl

theorem flagByte_decide_toNat (p : Prop) [Decidable p] : (flagByte (decide p)).toNat = if p then 1 else 0 := by
  rw [flagByte_decide]
  split <;> rfl

/-- The bit a right shift by one shifts out is the remainder by 2 (R210). -/
theorem flagByte_lowBit_toNat (a : Byte) : (flagByte (lowBit a)).toNat = a.toNat % 2 := by
  rw [flagByte_toNat, lowBit, BitVec.getLsbD, Nat.toNat_testBit, Nat.pow_zero, Nat.div_one]

/-- The bit a left shift by one shifts out is the quotient by 128, below 2 for a byte (R212). -/
theorem flagByte_highBit_toNat (a : Byte) : (flagByte (highBit a)).toNat = a.toNat / 128 := by
  rw [flagByte_toNat, highBit, BitVec.getLsbD, Nat.toNat_testBit]
  have hlt : a.toNat < 256 := a.isLt
  omega

/-- The difference of two bytes is the exact difference modulo 256. -/
theorem byte_sub_toNat (a b : Byte) : ((a - b).toNat : Int) = (a.toNat - b.toNat : Int) % 256 := by
  rw [BitVec.toNat_sub]
  omega

/-! ### The statements -/

/-- Settles O24: `writeResultAndFlag_completes` for the sum and its carry. -/
theorem addSetsCarry : Obligations.AddSetsCarry := by
  intro x y s
  obtain ⟨t, hexec, hvalue, hflag, hpc, hframe⟩ := writeResultAndFlag_completes x (s.readV x + s.readV y)
    (carryOut (s.readV x) (s.readV y)) s
  refine ⟨encodedAs_aluRow 0x4 rfl rfl, t, hexec, fun hx => ?_, ?_, hpc, hframe⟩
  · rw [hvalue hx, BitVec.toNat_add]
  · rw [hflag, carryOut, flagByte_decide_toNat]

/-- A subtraction, whichever operand is the minuend: the difference modulo 256, and 1 in VF when nothing is borrowed. -/
theorem subtraction_completes (x : Reg) (a b : Byte) (s : State) :
    ∃ t, writeResultAndFlag x (a - b) (noBorrow a b) s = .next t ∧
      (x ≠ Reg.vf → ((t.readV x).toNat : Int) = (a.toNat - b.toNat : Int) % 256) ∧
      (t.readV Reg.vf).toNat = (if a.toNat ≥ b.toNat then 1 else 0) ∧
      t.pc = s.pc + 2 ∧ ChangesOnlyRegs [x, Reg.vf] s t := by
  obtain ⟨t, hexec, hvalue, hflag, hpc, hframe⟩ := writeResultAndFlag_completes x (a - b) (noBorrow a b) s
  refine ⟨t, hexec, fun hx => ?_, ?_, hpc, hframe⟩
  · rw [hvalue hx, byte_sub_toNat]
  · rw [hflag, noBorrow, flagByte_decide_toNat]

/-- Settles O25: `subtraction_completes` with VX, then with VY as the minuend. -/
theorem subtractionsSetNoBorrow : Obligations.SubtractionsSetNoBorrow := by
  intro x y s
  exact ⟨encodedAs_aluRow 0x5 rfl rfl, encodedAs_aluRow 0x7 rfl rfl,
    subtraction_completes x (s.readV x) (s.readV y) s, subtraction_completes x (s.readV y) (s.readV x) s⟩

/-- Settles O26: `writeResultAndFlag_completes` for each shift of VX and the bit it shifts out; VY is not read. -/
theorem shiftsSetTheBitShiftedOut : Obligations.ShiftsSetTheBitShiftedOut := by
  intro x y s
  refine ⟨encodedAs_aluRow 0x6 rfl rfl, encodedAs_aluRow 0xE rfl rfl, ?shr, ?shl⟩
  case shr =>
    obtain ⟨t, hexec, hvalue, hflag, hpc, hframe⟩ := writeResultAndFlag_completes x (s.readV x >>> 1)
      (lowBit (s.readV x)) s
    refine ⟨t, hexec, fun hx => ?_, ?_, hpc, hframe⟩
    · rw [hvalue hx, BitVec.toNat_ushiftRight, Nat.shiftRight_eq_div_pow, Nat.pow_one]
    · rw [hflag, flagByte_lowBit_toNat]
  case shl =>
    obtain ⟨t, hexec, hvalue, hflag, hpc, hframe⟩ := writeResultAndFlag_completes x (s.readV x <<< 1)
      (highBit (s.readV x)) s
    refine ⟨t, hexec, fun hx => ?_, ?_, hpc, hframe⟩
    · rw [hvalue hx, BitVec.toNat_shiftLeft, Nat.shiftLeft_eq, Nat.pow_one]
    · rw [hflag, flagByte_highBit_toNat]

/-- Settles O22: `writeResult_completes` gives the byte written, and `BitVec.getElem_or`, `getElem_and` and `getElem_xor`
its bits. -/
theorem movesAndLogicWriteVx : Obligations.MovesAndLogicWriteVx := by
  intro x y nn s
  refine ⟨encodedAs_ldByte x nn, encodedAs_aluRow 0x0 rfl rfl, encodedAs_aluRow 0x1 rfl rfl,
    encodedAs_aluRow 0x2 rfl rfl, encodedAs_aluRow 0x3 rfl rfl,
    writeResult_completes x nn s, writeResult_completes x (s.readV y) s, ?or, ?and, ?xor⟩
  case or =>
    obtain ⟨t, hexec, hvalue, hrest⟩ := writeResult_completes x (s.readV x ||| s.readV y) s
    exact ⟨t, hexec, fun k => hvalue ▸ BitVec.getElem_or k.isLt, hrest⟩
  case and =>
    obtain ⟨t, hexec, hvalue, hrest⟩ := writeResult_completes x (s.readV x &&& s.readV y) s
    exact ⟨t, hexec, fun k => hvalue ▸ BitVec.getElem_and k.isLt, hrest⟩
  case xor =>
    obtain ⟨t, hexec, hvalue, hrest⟩ := writeResult_completes x (s.readV x ^^^ s.readV y) s
    exact ⟨t, hexec, fun k => hvalue ▸ BitVec.getElem_xor k.isLt, hrest⟩

/-- Settles O23: `writeResult_completes` for the sum, which `BitVec.toNat_add` takes modulo 256. -/
theorem addImmediateWrapsWithoutFlag : Obligations.AddImmediateWrapsWithoutFlag := by
  intro x nn s
  obtain ⟨t, hexec, hvalue, hrest⟩ := writeResult_completes x (s.readV x + nn) s
  refine ⟨encodedAs_addByte x nn, t, hexec, ?_, hrest⟩
  rw [hvalue, BitVec.toNat_add]

end Sys2Proof.Machine
end

section
/-! PROOF. The index register and the data loads and stores (44_index_memory.md): the encodings of the op-F rows, the
frames of a new I, of a store at I and of a register load, and the bytes they move. -/

namespace Sys2Proof.Machine

/-! ### The encodings -/

theorem encodedAs_ldI (nnn : BitVec 12) : EncodedAs (.ldI nnn) 0xF000 0xA000 :=
  ⟨encNNN_and_mask 0xA nnn, by simp [encode, decode_eq_ldI]⟩

/-- An instruction FXnn is encoded as the row nn of op F when that row of the dispatch names it. -/
theorem encodedAs_miscRow {i : Instr} {x : Reg} (nn : Byte) (hencode : encode i = encXNN 0xF x nn)
    (hrow : decodeMisc x nn.toNat = some i) : EncodedAs i 0xF0FF (0xF#4 ++ (0#4 ++ nn)) := by
  rw [EncodedAs, hencode]
  refine ⟨encXNN_and_maskXFF 0xF x nn, ?_⟩
  rw [decode_eq_decodeMisc (opField_encXNN _ _ _), xField_encXNN, nnField_encXNN, hrow]

/-! ### The access at I -/

/-- The n + 1 bytes at I are in memory exactly when the last of them is (R242). -/
theorem dataInBounds_succ {s : State} {n : Nat} : s.DataInBounds (n + 1) ↔ s.I.toNat + n < 4096 :=
  or_iff_right (Nat.succ_ne_zero n)

theorem not_dataInBounds_succ {s : State} {n : Nat} (h : s.I.toNat + n ≥ 4096) : ¬s.DataInBounds (n + 1) :=
  fun hin => Nat.not_lt.mpr h (dataInBounds_succ.mp hin)

/-! ### The frames -/

/-- A new I changes nothing but I. -/
theorem changesOnlyIndex_setI (s : State) (a : Word) (k : Nat) : ChangesOnlyIndex [] s ((s.setI a).advance k) :=
  ⟨fun _ _ => rfl, fun _ => rfl, ⟨rfl, rfl⟩, ⟨rfl, rfl⟩, ⟨fun _ => rfl, rfl⟩, ⟨rfl, rfl, rfl⟩, rfl, rfl, rfl, rfl⟩

/-- A store of bytes at I that fits in memory changes nothing but those bytes. -/
theorem changesOnlyMemory_storeAtI {s : State} (hmem : s.mem.wf = true) {bs : List Byte}
    (hfit : s.I.toNat + bs.length ≤ Config.memSize) (k : Nat) :
    ChangesOnlyMemory s.I.toNat bs.length s ((s.storeAtI bs).advance k) :=
  ⟨fun _ _ => rfl, rfl, fun _ hb => Memory.read_writeBytes_outside hmem hfit hb, ⟨rfl, rfl⟩, ⟨rfl, rfl⟩,
    ⟨fun _ => rfl, rfl⟩, ⟨rfl, rfl, rfl⟩, rfl, rfl, rfl, rfl⟩

/-- New V registers and a new pc change nothing but the registers that differ. -/
theorem changesOnlyRegs_setPc_of_regs {ds : List Reg} {s : State} {regs : Vector Byte 16} (target : Word)
    (hregs : ∀ r ∉ ds, regs[r.val] = s.readV r) : ChangesOnlyRegs ds s ({ s with v := regs }.setPc target) :=
  ⟨hregs, rfl, fun _ => rfl, ⟨rfl, rfl⟩, ⟨rfl, rfl⟩, ⟨fun _ => rfl, rfl⟩, ⟨rfl, rfl, rfl⟩, rfl, rfl, rfl, rfl⟩

/-- A load of V0..VX changes nothing but those registers. -/
theorem changesOnlyRegs_loadRange (s : State) (x : Reg) (k : Nat) :
    ChangesOnlyRegs ((List.finRange 16).filter (· ≤ x)) s ((s.loadRange x).advance k) := by
  refine changesOnlyRegs_setPc_of_regs _ fun r hr => ?_
  have hout : ¬r ≤ x := by simpa using hr
  exact (readV_loadRange s x r).trans (if_neg hout)

/-! ### The bytes stored -/

/-- Each of the three digits is below 256, so the byte that holds it is exact (R251). -/
theorem bcdDigits_toNat (b : Byte) :
    (bcdDigits b)[0].toNat = b.toNat / 100 ∧ (bcdDigits b)[1].toNat = b.toNat / 10 % 10 ∧
      (bcdDigits b)[2].toNat = b.toNat % 10 := by
  have hlt : b.toNat < 256 := b.isLt
  exact ⟨Nat.mod_eq_of_lt (by omega), Nat.mod_eq_of_lt (by omega), Nat.mod_eq_of_lt (by omega)⟩

/-! ### The statements -/

/-- Settles O31: a store of `bcdDigits` at I, read back byte by byte, or the refused access. -/
theorem bcdStoresThreeDigits : Obligations.BcdStoresThreeDigits := by
  intro x s hmem
  refine ⟨encodedAs_miscRow 0x33 rfl rfl, fun hin => ?_, fun hout => execLdB_outOfBounds x (not_dataInBounds_succ hout)⟩
  have hfit : s.I.toNat + (bcdDigits (s.readV x)).length ≤ Config.memSize := hin
  have hread (k : Nat) (hk : k < 3) := congrArg BitVec.toNat (Memory.read_writeBytes_inside hmem hfit hk)
  obtain ⟨hhundreds, htens, hones⟩ := bcdDigits_toNat (s.readV x)
  exact ⟨_, execLdB_inBounds x (dataInBounds_succ.mpr hin), (hread 0 (by decide)).trans hhundreds,
    (hread 1 (by decide)).trans htens, (hread 2 (by decide)).trans hones, rfl, changesOnlyMemory_storeAtI hmem hfit 2⟩

/-- Settles O32: a store of `regRange` at I, whose k-th byte is Vk by `regRange_getD`, or the refused access. -/
theorem storeRegistersToMemory : Obligations.StoreRegistersToMemory := by
  intro x s hmem
  refine ⟨encodedAs_miscRow 0x55 rfl rfl, fun hin => ?_,
    fun hout => execStoreRegs_outOfBounds x (not_dataInBounds_succ hout)⟩
  have hfit : s.I.toNat + (s.regRange x).length ≤ Config.memSize := (regRange_length s x).symm ▸ hin
  refine ⟨_, execStoreRegs_inBounds x (dataInBounds_succ.mpr hin), fun k hk => ?_, rfl,
    regRange_length s x ▸ changesOnlyMemory_storeAtI hmem hfit 2⟩
  rw [advance_mem, storeAtI_mem, Memory.read_writeBytes hmem hfit, if_pos (Nat.le_add_right _ _),
    Nat.add_sub_cancel_left, regRange_getD s x hk]

/-- Settles O33: `readV_loadRange` up to VX, `changesOnlyRegs_loadRange` for the rest, or the refused access. -/
theorem loadRegistersFromMemory : Obligations.LoadRegistersFromMemory := by
  intro x s
  refine ⟨encodedAs_miscRow 0x65 rfl rfl, fun hin => ?_,
    fun hout => execLoadRegs_outOfBounds x (not_dataInBounds_succ hout)⟩
  exact ⟨_, execLoadRegs_inBounds x (dataInBounds_succ.mpr hin),
    fun k hk => (readV_loadRange s x k).trans (if_pos hk), rfl, changesOnlyRegs_loadRange s x 2⟩

/-- Settles O29: the two values of I are exact by `zext16_toNat` and `glyphAddress_toNat`. -/
theorem indexLoads : Obligations.IndexLoads := by
  intro x nnn s
  exact ⟨encodedAs_ldI nnn, encodedAs_miscRow 0x29 rfl rfl,
    ⟨_, rfl, zext16_toNat nnn, rfl, changesOnlyIndex_setI s _ 2⟩,
    ⟨_, rfl, glyphAddress_toNat (s.readV x), rfl, changesOnlyIndex_setI s _ 2⟩⟩

end Sys2Proof.Machine
end

section
/-! PROOF. The clear of the display (45_display.md): its encoding, and the frame of a new framebuffer. -/

namespace Sys2Proof.Machine

theorem encodedAs_cls : EncodedAs .cls 0xFFFF 0x00E0 := ⟨by decide, by decide⟩

/-- A new framebuffer changes nothing but the display. -/
theorem changesOnlyDisplay_setFrame (s : State) (fb : Framebuffer) (k : Nat) :
    ChangesOnlyDisplay [] s ((s.setFrame fb).advance k) :=
  ⟨fun _ _ => rfl, rfl, fun _ => rfl, ⟨rfl, rfl⟩, ⟨rfl, rfl⟩, ⟨rfl, rfl, rfl⟩, rfl, rfl, rfl, rfl⟩

/-- Settles O36: the new frame is `Framebuffer.clear`, off in every cell by `cell_clear`, and
`changesOnlyDisplay_setFrame` gives the rest. -/
theorem clearTurnsEveryCellOff : Obligations.ClearTurnsEveryCellOff := by
  intro s
  exact ⟨encodedAs_cls, _, rfl, cell_clear, rfl, rfl, changesOnlyDisplay_setFrame s _ 2⟩

end Sys2Proof.Machine
end

section
/-! PROOF. The timer instructions (46_timers_keypad.md): the frame of new timers, and the end of the step that runs an
instruction without a fault. -/

namespace Sys2Proof.Machine

/-- New values of the timers change nothing but the timers. -/
theorem changesOnlyTimers_setTimers (s : State) (delay sound : Byte) (k : Nat) :
    ChangesOnlyTimers s ({ s with delayT := delay, soundT := sound }.advance k) :=
  ⟨fun _ _ => rfl, rfl, fun _ => rfl, ⟨rfl, rfl⟩, ⟨fun _ => rfl, rfl⟩, ⟨rfl, rfl, rfl⟩, rfl, rfl, rfl, rfl⟩

/-- The step that fetches the word of `i` ends in what the handler of `i` leaves, after the tick, when the handler keeps
the fault record. -/
theorem step_of_fetchWord_eq_encode {i : Instr} {s t : State} (hdecode : decode (encode i) = some i)
    (hexec : exec i s = .next t) (hfault : t.fault = s.fault) (hrun : s.Running) (hfetch : s.CanFetch)
    (hword : s.fetchWord = encode i) : step s = .next t.finishStep := by
  rw [step_of_decode hrun hfetch (hword ▸ hdecode), hexec, afterExec_of_noFault (hfault.trans hrun.1)]

/-- Settles O41: each handler writes one byte, and at the end of its step `countDown_toNat` gives the timer that the tick
leaves. -/
theorem timerInstructions : Obligations.TimerInstructions := by
  intro x s
  have hread : EncodedAs (.ldVxDT x) 0xF0FF 0xF007 := encodedAs_miscRow 0x07 rfl rfl
  have hdelay : EncodedAs (.ldDTVx x) 0xF0FF 0xF015 := encodedAs_miscRow 0x15 rfl rfl
  have hsound : EncodedAs (.ldSTVx x) 0xF0FF 0xF018 := encodedAs_miscRow 0x18 rfl rfl
  refine ⟨hread, hdelay, hsound, writeResult_completes x s.delayT s,
    ⟨_, rfl, rfl, rfl, rfl, changesOnlyTimers_setTimers s (s.readV x) s.soundT 2⟩,
    ⟨_, rfl, rfl, rfl, rfl, changesOnlyTimers_setTimers s s.delayT (s.readV x) 2⟩,
    fun hrun hfetch hword => ?_, fun hrun hfetch hword => ?_, fun hrun hfetch hword => ?_⟩
  · exact ⟨_, step_of_fetchWord_eq_encode hread.2 rfl rfl hrun hfetch hword, readV_writeV_self s x s.delayT,
      countDown_toNat s.delayT⟩
  · exact ⟨_, step_of_fetchWord_eq_encode hdelay.2 rfl rfl hrun hfetch hword, countDown_toNat (s.readV x)⟩
  · exact ⟨_, step_of_fetchWord_eq_encode hsound.2 rfl rfl hrun hfetch hword, countDown_toNat (s.readV x)⟩

end Sys2Proof.Machine
end

section
/-! PROOF. The two round trips of the encoding (30_encoding.md sections 1 to 4), and the opcode table: every instruction
is encoded as its own row, and a word that a row covers decodes to an instruction of that row. -/

namespace Sys2Proof.Machine

/-! ### Every instruction is encoded as its own row -/

theorem encodedAs_rnd (x : Reg) (nn : Byte) : EncodedAs (.rnd x nn) 0xF000 0xC000 :=
  ⟨encXNN_and_mask 0xC x nn, by simp [encode, decode_eq_rnd]⟩

theorem encodedAs_drw (x y : Reg) (n : BitVec 4) : EncodedAs (.drw x y n) 0xF000 0xD000 :=
  ⟨encXYN_and_mask 0xD x y n, by simp [encode, decode_eq_drw]⟩

/-- An instruction EXnn is encoded as the row nn of op E when that row of the dispatch names it. -/
theorem encodedAs_keyRow {i : Instr} {x : Reg} (nn : Byte) (hencode : encode i = encXNN 0xE x nn)
    (hrow : decodeKey x nn.toNat = some i) : EncodedAs i 0xF0FF (0xE#4 ++ (0#4 ++ nn)) := by
  rw [EncodedAs, hencode]
  refine ⟨encXNN_and_maskXFF 0xE x nn, ?_⟩
  rw [decode_eq_decodeKey (opField_encXNN _ _ _), xField_encXNN, nnField_encXNN, hrow]

/-- Every instruction is encoded with the bits of its row, and its word decodes to it (R113, R118). -/
theorem encodedAs_row : ∀ i : Instr, EncodedAs i i.row.mask i.row.bits
  | .cls => encodedAs_cls
  | .ret => encodedAs_ret
  | .jp nnn => encodedAs_jp nnn
  | .call nnn => encodedAs_call nnn
  | .seByte x nn => encodedAs_seByte x nn
  | .sneByte x nn => encodedAs_sneByte x nn
  | .seReg x y => encodedAs_seReg x y
  | .ldByte x nn => encodedAs_ldByte x nn
  | .addByte x nn => encodedAs_addByte x nn
  | .ldReg _ _ => encodedAs_aluRow 0x0 rfl rfl
  | .orReg _ _ => encodedAs_aluRow 0x1 rfl rfl
  | .andReg _ _ => encodedAs_aluRow 0x2 rfl rfl
  | .xorReg _ _ => encodedAs_aluRow 0x3 rfl rfl
  | .addReg _ _ => encodedAs_aluRow 0x4 rfl rfl
  | .subReg _ _ => encodedAs_aluRow 0x5 rfl rfl
  | .shr _ _ => encodedAs_aluRow 0x6 rfl rfl
  | .subnReg _ _ => encodedAs_aluRow 0x7 rfl rfl
  | .shl _ _ => encodedAs_aluRow 0xE rfl rfl
  | .sneReg x y => encodedAs_sneReg x y
  | .ldI nnn => encodedAs_ldI nnn
  | .jpV0 nnn => encodedAs_jpV0 nnn
  | .rnd x nn => encodedAs_rnd x nn
  | .drw x y n => encodedAs_drw x y n
  | .skp _ => encodedAs_keyRow 0x9E rfl rfl
  | .sknp _ => encodedAs_keyRow 0xA1 rfl rfl
  | .ldVxDT _ => encodedAs_miscRow 0x07 rfl rfl
  | .ldVxK _ => encodedAs_miscRow 0x0A rfl rfl
  | .ldDTVx _ => encodedAs_miscRow 0x15 rfl rfl
  | .ldSTVx _ => encodedAs_miscRow 0x18 rfl rfl
  | .addI _ => encodedAs_miscRow 0x1E rfl rfl
  | .ldF _ => encodedAs_miscRow 0x29 rfl rfl
  | .ldB _ => encodedAs_miscRow 0x33 rfl rfl
  | .storeRegs _ => encodedAs_miscRow 0x55 rfl rfl
  | .loadRegs _ => encodedAs_miscRow 0x65 rfl rfl

/-- The word of an instruction decodes to it. -/
theorem decode_encode (i : Instr) : decode (encode i) = some i := (encodedAs_row i).2

/-- Settles O1: `decode_encode`, the second half of `encodedAs_row`. -/
theorem decodeOfEncode : Obligations.DecodeOfEncode := fun i _ => decode_encode i

/-! ### A legal word is the encoding of its instruction -/

variable {w : Word} {i : Instr}

theorem encode_of_decodeZero (h : decodeZero w = some i) : encode i = w := by
  unfold decodeZero at h
  split at h
  · cases h; exact Eq.symm ‹_›
  · split at h <;> cases h
    exact Eq.symm ‹_›

/-- A field is the literal that has its value. -/
theorem eq_ofNat_of_toNat_eq {k m : Nat} {b : BitVec k} (h : b.toNat = m) : b = BitVec.ofNat k m := by
  rw [← h, BitVec.ofNat_toNat, BitVec.setWidth_eq]

/-- A row of op 8 keeps both registers and N in the word it decodes, also where the instruction ignores Y. -/
theorem encode_of_decodeAlu {x y : Reg} {n : BitVec 4} (h : decodeAlu x y n.toNat = some i) :
    encode i = encXYN 0x8 x y n := by
  unfold decodeAlu at h
  split at h <;> cases h
  all_goals next hn => rw [eq_ofNat_of_toNat_eq hn]; rfl

theorem encode_of_decodeKey {x : Reg} {nn : Byte} (h : decodeKey x nn.toNat = some i) :
    encode i = encXNN 0xE x nn := by
  unfold decodeKey at h
  split at h <;> cases h
  all_goals next hnn => rw [eq_ofNat_of_toNat_eq hnn]; rfl

theorem encode_of_decodeMisc {x : Reg} {nn : Byte} (h : decodeMisc x nn.toNat = some i) :
    encode i = encXNN 0xF x nn := by
  unfold decodeMisc at h
  split at h <;> cases h
  all_goals next hnn => rw [eq_ofNat_of_toNat_eq hnn]; rfl

/-- The encoding of a decoded instruction, op nibble by op nibble: the word put together again from the fields that the
decoder took out of it. -/
theorem encode_of_decode (h : decode w = some i) : encode i = w := by
  have nnn {op : BitVec 4} (hop : opField w = op) : encNNN op (nnnField w) = w := hop ▸ encNNN_fields w
  have xnn {op : BitVec 4} (hop : opField w = op) : encXNN op (xField w) (nnField w) = w := hop ▸ encXNN_fields w
  have xyn {op : BitVec 4} (hop : opField w = op) : encXYN op (xField w) (yField w) (nField w) = w :=
    hop ▸ encXYN_fields w
  unfold decode at h
  split at h
  case h_1 => exact encode_of_decodeZero h
  case h_6 hop | h_10 hop =>
    split at h <;> cases h
    next hn =>
      have hw := xyn (eq_ofNat_of_toNat_eq hop)
      rw [hn] at hw
      exact hw
  case h_9 hop => exact (encode_of_decodeAlu h).trans (xyn (eq_ofNat_of_toNat_eq hop))
  case h_15 hop => exact (encode_of_decodeKey h).trans (xnn (eq_ofNat_of_toNat_eq hop))
  case h_16 hop => exact (encode_of_decodeMisc h).trans (xnn (eq_ofNat_of_toNat_eq hop))
  case h_17 => cases h
  case h_2 hop | h_3 hop | h_11 hop | h_12 hop => cases h; exact nnn (eq_ofNat_of_toNat_eq hop)
  case h_4 hop | h_5 hop | h_7 hop | h_8 hop | h_13 hop => cases h; exact xnn (eq_ofNat_of_toNat_eq hop)
  case h_14 hop => cases h; exact xyn (eq_ofNat_of_toNat_eq hop)

/-- Settles O2: `encode_of_decode`. -/
theorem encodeOfDecode : Obligations.EncodeOfDecode := fun _ _ => encode_of_decode

/-! ### The opcode table -/

theorem row_mem_opcodeTable (i : Instr) : i.row ∈ opcodeTable := by
  cases i <;> simp [Instr.row, opcodeTable]

/-- The row of the instruction a word decodes to covers the word. -/
theorem covers_row_of_decode (h : decode w = some i) : i.row.covers w = true :=
  encode_of_decode h ▸ decide_eq_true (encodedAs_row i).1

/-- The word decodes to an instruction of this row. -/
def DecodesToRow (w : Word) (r : OpcodeRow) : Prop := ∃ i, decode w = some i ∧ i.row = r

/-- A word that a row of the table covers decodes to an instruction of that row (R118), row by row. -/
theorem decodesToRow_of_covers :
    ∀ r ∈ opcodeTable, r.covers w = true → DecodesToRow w r := by
  have op {op : BitVec 4} {i : Instr} (hdecode : opField w = op → decode w = some i)
      (h : OpcodeRow.covers ⟨0xF000, op ++ 0#12⟩ w = true) : DecodesToRow w i.row :=
    ⟨i, hdecode (and_maskOp.mp (of_decide_eq_true h)), rfl⟩
  have alu (n : BitVec 4) {i : Instr} (hrow : decodeAlu (xField w) (yField w) n.toNat = some i)
      (h : OpcodeRow.covers ⟨0xF00F, 0x8#4 ++ (0#8 ++ n)⟩ w = true) : DecodesToRow w i.row :=
    ⟨i, (decode_aluRow n (of_decide_eq_true h)).trans hrow, rfl⟩
  have key (nn : Byte) {i : Instr} (hrow : decodeKey (xField w) nn.toNat = some i)
      (h : OpcodeRow.covers ⟨0xF0FF, 0xE#4 ++ (0#4 ++ nn)⟩ w = true) : DecodesToRow w i.row :=
    ⟨i, (decode_keyRow nn (of_decide_eq_true h)).trans hrow, rfl⟩
  have misc (nn : Byte) {i : Instr} (hrow : decodeMisc (xField w) nn.toNat = some i)
      (h : OpcodeRow.covers ⟨0xF0FF, 0xF#4 ++ (0#4 ++ nn)⟩ w = true) : DecodesToRow w i.row :=
    ⟨i, (decode_miscRow nn (of_decide_eq_true h)).trans hrow, rfl⟩
  have whole {v : Word} (h : OpcodeRow.covers ⟨0xFFFF, v⟩ w = true) : w = v := by
    have hand : w &&& BitVec.allOnes 16 = v := of_decide_eq_true h
    rwa [BitVec.and_allOnes] at hand
  have noN (op : BitVec 4) (h : OpcodeRow.covers ⟨0xF00F, op ++ (0#8 ++ 0#4)⟩ w = true) :
      opField w = op ∧ nField w = 0 := and_maskXYF.mp (of_decide_eq_true h)
  simp only [opcodeTable, List.cons_append, List.nil_append, List.forall_mem_cons]
  exact ⟨fun h => ⟨.cls, whole h ▸ rfl, rfl⟩, fun h => ⟨.ret, whole h ▸ rfl, rfl⟩,
    op decode_eq_jp, op decode_eq_call, op decode_eq_seByte, op decode_eq_sneByte,
    fun h => ⟨_, (decode_eq_seReg (noN 0x5 h).1).trans (if_pos (noN 0x5 h).2), rfl⟩,
    op decode_eq_ldByte, op decode_eq_addByte,
    alu 0x0 rfl, alu 0x1 rfl, alu 0x2 rfl, alu 0x3 rfl, alu 0x4 rfl, alu 0x5 rfl, alu 0x6 rfl, alu 0x7 rfl, alu 0xE rfl,
    fun h => ⟨_, (decode_eq_sneReg (noN 0x9 h).1).trans (if_pos (noN 0x9 h).2), rfl⟩,
    op decode_eq_ldI, op decode_eq_jpV0, op decode_eq_rnd, op decode_eq_drw,
    key 0x9E rfl, key 0xA1 rfl,
    misc 0x07 rfl, misc 0x0A rfl, misc 0x15 rfl, misc 0x18 rfl, misc 0x1E rfl, misc 0x29 rfl, misc 0x33 rfl,
    misc 0x55 rfl, misc 0x65 rfl, List.forall_mem_nil _⟩

/-- Settles O4: a row that covers a word is the row of the instruction the word decodes to, so there is at most one, and
none when the word is illegal. -/
theorem opcodeTableIsUnambiguous : Obligations.OpcodeTableIsUnambiguous := by
  refine ⟨fun w => ⟨fun hillegal r hr => ?_, fun hnone => ?_⟩,
    fun w i h => ⟨row_mem_opcodeTable i, covers_row_of_decode h⟩, fun w r hr q hq hrw hqw => ?_⟩
  · refine Bool.eq_false_iff.mpr fun hcov => ?_
    obtain ⟨i, hi, -⟩ := decodesToRow_of_covers r hr hcov
    exact Option.some_ne_none i (hi.symm.trans hillegal)
  · refine Option.eq_none_iff_forall_ne_some.mpr fun i hi => ?_
    exact Bool.false_ne_true ((hnone _ (row_mem_opcodeTable i)).symm.trans (covers_row_of_decode hi))
  · obtain ⟨i, hi, rfl⟩ := decodesToRow_of_covers r hr hrw
    obtain ⟨j, hj, rfl⟩ := decodesToRow_of_covers q hq hqw
    rw [Option.some.inj (hi.symm.trans hj)]

/-- Settles O5, word by word. -/
theorem wordsOfTheSpecDecode : Obligations.WordsOfTheSpecDecode :=
  ⟨by decide, by decide, by decide, by decide, by decide, by decide, by decide⟩

end Sys2Proof.Machine
end

section
/-! PROOF. What a handler and a step can do, said once for all 34 instructions: which fields an instruction may change
and where it sends pc when it completes, and the fault it latches otherwise. The statements about every instruction and
about every step are read off from here. -/

namespace Sys2Proof.Machine

variable {i : Instr} {s t : State}

/-! ### The handlers -/

/-- The pc that `i`, run at `s`, goes on at (41_control_transfer.md section 1, 42_skip.md R180). -/
def NextPc (i : Instr) (s : State) (pc : Word) : Prop :=
  match i with
  | .ret => ∃ k : Fin 16, s.sp.val = k.val + 1 ∧ pc = s.stack[k] + 2
  | .jp nnn | .call nnn => pc = zext16 nnn
  | .jpV0 nnn => pc = zext16 nnn + (s.readV 0).setWidth 16
  | _ => pc = s.pc + 2 ∨ pc = s.pc + 4

/-- The change that `i` may make to `s`, by the kind of state element it writes beside the pc. -/
inductive Change (i : Instr) (s : State) : State → Prop
  | registers {v : Vector Byte 16} {pc : Word} (hregs : ∀ r ∉ mayWrite i, v[r.val] = s.readV r) :
      Change i s { s with v := v, pc := pc }
  | index {a : Word} {v : Vector Byte 16} {pc : Word}
      (hi : (∃ nnn, i = .ldI nnn) ∨ (∃ x, i = .addI x) ∨ ∃ x, i = .ldF x)
      (hregs : ∀ r ∉ mayWrite i, v[r.val] = s.readV r) : Change i s { s with I := a, v := v, pc := pc }
  | stack {entries : Vector Word 16} {sp : Fin 17} {pc : Word} (hi : (∃ nnn, i = .call nnn) ∨ i = .ret)
      (hentries : ∀ k : Fin 16, entries[k] = s.pc ∨ entries[k] = s.stack[k]) :
      Change i s { s with stack := entries, sp := sp, pc := pc }
  | memory {m : Memory} {pc : Word} (hi : (∃ x, i = .ldB x) ∨ ∃ x, i = .storeRegs x)
      (hwf : s.mem.wf = true → m.wf = true) : Change i s { s with mem := m, pc := pc }
  | display {fb : Framebuffer} {v : Vector Byte 16} {pc : Word} (hi : i = .cls ∨ ∃ x y n, i = .drw x y n)
      (hregs : ∀ r ∉ mayWrite i, v[r.val] = s.readV r) :
      Change i s { s with fb := fb, redraw := true, v := v, pc := pc }
  | timers {delay sound : Byte} {pc : Word} : Change i s { s with delayT := delay, soundT := sound, pc := pc }
  | keyWait {x : Reg} {pc : Word} (hi : i = .ldVxK x) : Change i s { s with stopped := true, waitX := x, pc := pc }

/-- The three ways the handler of `i` can end: with the fault of its data access, with another fault of its own, or
complete. -/
inductive HandlerOutcome (i : Instr) (s : State) : State → Prop
  | dataFault (hout : ¬s.DataInBounds (bytesTouched i)) :
      HandlerOutcome i s
        (s.latch ⟨.dataOutOfBounds, s.pc, some (encode i), some (max s.I.toNat Config.memSize)⟩)
  | otherFault {c : Fault} (hin : s.DataInBounds (bytesTouched i))
      (hc : c ∉ [Fault.fetchOutOfBounds, .illegalInstruction, .dataOutOfBounds]) :
      HandlerOutcome i s (s.latch ⟨c, s.pc, some (encode i), none⟩)
  | completes {t : State} (hin : s.DataInBounds (bytesTouched i)) (hpc : NextPc i s t.pc) (hchange : Change i s t) :
      HandlerOutcome i s t

/-- An instruction that touches no data completes when its next pc and its change are what `NextPc` and `Change` say. -/
theorem HandlerOutcome.completes_of_noData (hdata : bytesTouched i = 0) (hpc : NextPc i s t.pc)
    (hchange : Change i s t) : HandlerOutcome i s t :=
  .completes (.inl hdata) hpc hchange

/-- A write of VX alone (6XNN, 7XNN, 8XY0 to 8XY3, CXNN, FX07). -/
theorem handlerOutcome_writeResult {x : Reg} (b : Byte) (hdata : bytesTouched i = 0) (hwrite : mayWrite i = [x])
    (hpc : NextPc i s (s.pc + 2)) : HandlerOutcome i s ((s.writeV x b).advance 2) :=
  .completes_of_noData hdata hpc (.registers (hwrite ▸ (changesOnlyRegs_writeV s x b 2).1))

/-- A write of VX and then of VF (8XY4 to 8XY7, 8XYE). -/
theorem handlerOutcome_writeResultAndFlag {x : Reg} (b : Byte) (flag : Bool) (hdata : bytesTouched i = 0)
    (hwrite : mayWrite i = [x, Reg.vf]) (hpc : NextPc i s (s.pc + 2)) :
    HandlerOutcome i s (((s.writeV x b).setFlag flag).advance 2) :=
  .completes_of_noData hdata hpc (.registers (hwrite ▸ (changesOnlyRegs_writeV_setFlag s x b flag 2).1))

/-- A skip (3XNN, 4XNN, 5XY0, 9XY0, and EX9E and EXA1 on a key). -/
theorem handlerOutcome_skip (k : Nat) (hdata : bytesTouched i = 0) (hpc : NextPc i s (s.pc + BitVec.ofNat 16 k)) :
    HandlerOutcome i s (s.advance k) :=
  .completes_of_noData hdata hpc (.registers fun _ _ => rfl)

theorem ofNat_skip (c : Bool) (pc : Word) :
    pc + BitVec.ofNat 16 (if c then 4 else 2) = pc + 2 ∨ pc + BitVec.ofNat 16 (if c then 4 else 2) = pc + 4 := by
  cases c
  · exact .inl rfl
  · exact .inr rfl

/-- A store at I that fits keeps the canonical form of memory. -/
theorem storeAtI_wf {bs : List Byte} (hin : s.DataInBounds bs.length) (hmem : s.mem.wf = true) :
    (s.storeAtI bs).mem.wf = true := by
  obtain hnil | hfit := hin
  · rwa [List.eq_nil_of_length_eq_zero hnil]
  · exact Memory.writeBytes_wf bs hmem hfit

/-- Every handler answers a next state, and ends in one of the three ways. -/
theorem exec_outcome (i : Instr) (s : State) : ∃ t, exec i s = .next t ∧ HandlerOutcome i s t := by
  cases i with
  | cls => exact ⟨_, rfl, .completes_of_noData rfl (.inl rfl) (.display (.inl rfl) fun _ _ => rfl)⟩
  | ret =>
    by_cases h : s.sp.val = 0
    · exact ⟨_, execRet_empty h, .otherFault (.inl rfl) (by decide)⟩
    · have hk : s.sp.val = (⟨s.sp.val - 1, by omega⟩ : Fin 16).val + 1 := by simp only; omega
      exact ⟨_, execRet_pop _ hk,
        .completes_of_noData rfl ⟨_, hk, rfl⟩ (.stack (.inr rfl) fun _ => .inr rfl)⟩
  | call nnn =>
    by_cases h : s.sp.val < 16
    · refine ⟨_, execCall_push nnn h, .completes_of_noData rfl rfl (.stack (.inl ⟨nnn, rfl⟩) fun k => ?_)⟩
      rw [getElem_pushedStack h]
      exact ite_eq_or_eq ..
    · exact ⟨_, execCall_full nnn (by omega), .otherFault (.inl rfl) (by decide)⟩
  | jp | jpV0 => exact ⟨_, rfl, .completes_of_noData rfl rfl (.registers fun _ _ => rfl)⟩
  | seByte | sneByte | seReg | sneReg => exact ⟨_, rfl, handlerOutcome_skip _ rfl (ofNat_skip ..)⟩
  | ldByte | addByte | ldReg | orReg | andReg | xorReg | rnd | ldVxDT =>
    exact ⟨_, rfl, handlerOutcome_writeResult _ rfl rfl (.inl rfl)⟩
  | addReg | subReg | shr | subnReg | shl =>
    exact ⟨_, rfl, handlerOutcome_writeResultAndFlag _ _ rfl rfl (.inl rfl)⟩
  | ldI nnn => exact ⟨_, rfl, .completes_of_noData rfl (.inl rfl) (.index (.inl ⟨nnn, rfl⟩) fun _ _ => rfl)⟩
  | addI x =>
    refine ⟨_, rfl, .completes_of_noData rfl (.inl rfl) (.index (.inr (.inl ⟨x, rfl⟩)) fun r hr => ?_)⟩
    exact readV_writeV_ne _ _ (List.ne_of_not_mem_cons hr)
  | ldF x => exact ⟨_, rfl, .completes_of_noData rfl (.inl rfl) (.index (.inr (.inr ⟨x, rfl⟩)) fun _ _ => rfl)⟩
  | drw x y n =>
    by_cases h : s.DataInBounds n.toNat
    · cases ht : collectTargets s.edgePolicy (s.drawPixels x y n) with
      | none => exact ⟨_, execDrw_offScreen x y n h ht, .otherFault h (by decide)⟩
      | some ts =>
        refine ⟨_, execDrw_draws x y n h ht, .completes h (.inl rfl) (.display (.inr ⟨x, y, n, rfl⟩) fun r hr => ?_)⟩
        exact readV_writeV_ne _ _ (List.ne_of_not_mem_cons hr)
    · exact ⟨_, execDrw_outOfBounds x y n h, .dataFault h⟩
  | skp x =>
    by_cases h : (s.readV x).toNat > 15
    · exact ⟨_, execSkp_noKey x h, .otherFault (.inl rfl) (by decide)⟩
    · exact ⟨_, execSkp_key x (k := ⟨(s.readV x).toNat, by omega⟩) rfl, handlerOutcome_skip _ rfl (ofNat_skip ..)⟩
  | sknp x =>
    by_cases h : (s.readV x).toNat > 15
    · exact ⟨_, execSknp_noKey x h, .otherFault (.inl rfl) (by decide)⟩
    · refine ⟨_, execSknp_key x (k := ⟨(s.readV x).toNat, by omega⟩) rfl, handlerOutcome_skip _ rfl ?_⟩
      split
      · exact .inl rfl
      · exact .inr rfl
  | ldVxK => exact ⟨_, rfl, .completes_of_noData rfl (.inl rfl) (.keyWait rfl)⟩
  | ldDTVx | ldSTVx => exact ⟨_, rfl, .completes_of_noData rfl (.inl rfl) .timers⟩
  | ldB x =>
    by_cases h : s.DataInBounds 3
    · exact ⟨_, execLdB_inBounds x h, .completes h (.inl rfl) (.memory (.inl ⟨x, rfl⟩) (storeAtI_wf h))⟩
    · exact ⟨_, execLdB_outOfBounds x h, .dataFault h⟩
  | storeRegs x =>
    by_cases h : s.DataInBounds (rangeSize x)
    · have hwf := storeAtI_wf (bs := s.regRange x) (by rwa [regRange_length])
      exact ⟨_, execStoreRegs_inBounds x h, .completes h (.inl rfl) (.memory (.inr ⟨x, rfl⟩) hwf)⟩
    · exact ⟨_, execStoreRegs_outOfBounds x h, .dataFault h⟩
  | loadRegs x =>
    by_cases h : s.DataInBounds (rangeSize x)
    · exact ⟨_, execLoadRegs_inBounds x h,
        .completes h (.inl rfl) (.registers (changesOnlyRegs_loadRange s x 2).1)⟩
    · exact ⟨_, execLoadRegs_outOfBounds x h, .dataFault h⟩

theorem handlerOutcome_of_exec (h : exec i s = .next t) : HandlerOutcome i s t := by
  obtain ⟨u, hexec, hout⟩ := exec_outcome i s
  exact Host.Outcome.next.inj (hexec.symm.trans h) ▸ hout

end Sys2Proof.Machine
end

section
/-! PROOF. Who writes what, instruction by instruction, read off from `Change` and `HandlerOutcome`. -/

namespace Sys2Proof.Machine

/-- Settles O48: a latched fault writes no register, and each kind of change keeps to `mayWrite`. -/
theorem registerWriters : Obligations.RegisterWriters := by
  intro i s t hexec r hr
  cases handlerOutcome_of_exec hexec with
  | dataFault | otherFault => rfl
  | completes _ _ hchange =>
    cases hchange with
    | registers hregs | index _ hregs | display _ hregs => exact hregs r hr
    | stack | memory | timers | keyWait => rfl

/-- Settles O49: I changes only by `Change.index` and the stack only by `Change.stack`. -/
theorem indexStackAndKeypadWriters : Obligations.IndexStackAndKeypadWriters := by
  intro i s t hexec
  cases handlerOutcome_of_exec hexec with
  | dataFault | otherFault => exact ⟨fun _ _ _ => rfl, fun _ _ => ⟨rfl, rfl⟩, rfl⟩
  | completes _ _ hchange =>
    cases hchange with
    | index hi =>
      refine ⟨fun hldI haddI hldF => ?_, fun _ _ => ⟨rfl, rfl⟩, rfl⟩
      obtain ⟨nnn, h⟩ | ⟨x, h⟩ | ⟨x, h⟩ := hi
      · exact absurd h (hldI nnn)
      · exact absurd h (haddI x)
      · exact absurd h (hldF x)
    | stack hi =>
      refine ⟨fun _ _ _ => rfl, fun hcall hret => ?_, rfl⟩
      obtain ⟨nnn, h⟩ | h := hi
      · exact absurd h (hcall nnn)
      · exact absurd h hret
    | registers | memory | display | timers | keyWait => exact ⟨fun _ _ _ => rfl, fun _ _ => ⟨rfl, rfl⟩, rfl⟩

/-- Settles O50: memory changes only by `Change.memory` and the display only by `Change.display`, which raises the
redraw flag. -/
theorem memoryAndDisplayWriters : Obligations.MemoryAndDisplayWriters := by
  intro i s t hexec
  cases handlerOutcome_of_exec hexec with
  | dataFault | otherFault => exact ⟨fun _ _ _ => rfl, fun _ _ => ⟨fun _ => rfl, rfl⟩, id⟩
  | completes _ _ hchange =>
    cases hchange with
    | memory hi =>
      refine ⟨fun hldB hstore => ?_, fun _ _ => ⟨fun _ => rfl, rfl⟩, id⟩
      obtain ⟨x, h⟩ | ⟨x, h⟩ := hi
      · exact absurd h (hldB x)
      · exact absurd h (hstore x)
    | display hi =>
      refine ⟨fun _ _ _ => rfl, fun hcls hdrw => ?_, fun _ => rfl⟩
      obtain h | ⟨x, y, n, h⟩ := hi
      · exact absurd h hcls
      · exact absurd h (hdrw x y n)
    | registers | index | stack | timers | keyWait => exact ⟨fun _ _ _ => rfl, fun _ _ => ⟨fun _ => rfl, rfl⟩, id⟩

/-! ### The draw port -/

section
variable (s : State) (r : Option Byte)

theorem setRand_dataFault (n : Nat) : (s.setRand r).dataFault n = s.dataFault n := rfl

theorem setRand_drawPixels (x y : Reg) (n : BitVec 4) : (s.setRand r).drawPixels x y n = s.drawPixels x y n := rfl

theorem setRand_push (a : Word) : (s.setRand r).push a = (s.push a).map (·.setRand r) := by
  by_cases h : s.sp.val < Config.stackDepth <;> simp [State.push, State.setRand, h]

theorem setRand_pop : (s.setRand r).pop = s.pop.map fun p => (p.1, p.2.setRand r) := by
  by_cases h : s.sp.val = 0 <;> simp [State.pop, State.setRand, h]

/-- The handler of any instruction but CXNN answers the same with another draw on the port: what it checks does not look
at the port, and what it then does leaves the port alone. -/
theorem exec_setRand {i : Instr} (hi : ∀ x nn, i ≠ .rnd x nn) :
    exec i (s.setRand r) = mapNext (·.setRand r) (exec i s) := by
  cases i with
  | rnd x nn => exact absurd rfl (hi x nn)
  | ret =>
    simp only [exec, execRet, setRand_pop]
    cases s.pop <;> rfl
  | call nnn =>
    simp only [exec, execCall, setRand_pc, setRand_push]
    cases s.push s.pc <;> rfl
  | drw x y n =>
    simp only [exec, execDrw, setRand_dataFault, setRand_edgePolicy, setRand_drawPixels]
    cases s.dataFault n.toNat
    · cases collectTargets s.edgePolicy (s.drawPixels x y n) <;> rfl
    · rfl
  | skp x | sknp x =>
    simp only [exec, execSkp, execSknp, setRand_readV]
    cases keyIndex (s.readV x) <;> rfl
  | ldB x =>
    simp only [exec, execLdB, setRand_dataFault]
    cases s.dataFault 3 <;> rfl
  | storeRegs x | loadRegs x =>
    simp only [exec, execStoreRegs, execLoadRegs, setRand_dataFault]
    cases s.dataFault (rangeSize x) <;> rfl
  | _ => rfl

end

/-- Settles O28: `exec_setRand`, where the handler answers `t`. -/
theorem onlyRandomReadsTheDraw : Obligations.OnlyRandomReadsTheDraw := by
  intro i s t r hi hexec
  exact (exec_setRand s r hi).trans (congrArg (mapNext (·.setRand r)) hexec)

/-! ### The data bounds fault -/

theorem Change.fault_eq {i : Instr} {s t : State} (h : Change i s t) : t.fault = s.fault := by
  cases h <;> rfl

/-- The bytes at I are out of bounds exactly when one of their addresses is (R85). -/
theorem not_dataInBounds_iff {s : State} {n : Nat} : ¬s.DataInBounds n ↔ ∃ k, k < n ∧ s.I.toNat + k ≥ 4096 := by
  simp only [State.DataInBounds, Config.memSize]
  constructor
  · intro h
    exact ⟨n - 1, by omega, by omega⟩
  · rintro ⟨k, hk, hge⟩
    omega

/-- The address a bounds fault reports is one that the access touches, and the lowest of those out of range (R242). -/
theorem max_I_memSize_lowest {s : State} {n : Nat} (hout : ¬s.DataInBounds n) :
    (∃ k, k < n ∧ max s.I.toNat Config.memSize = s.I.toNat + k) ∧
      ∀ k, k < n → s.I.toNat + k ≥ 4096 → max s.I.toNat Config.memSize ≤ s.I.toNat + k := by
  obtain ⟨k, hk, hge⟩ := not_dataInBounds_iff.mp hout
  simp only [Config.memSize]
  exact ⟨⟨max s.I.toNat 4096 - s.I.toNat, by omega, by omega⟩, fun _ _ _ => by omega⟩

/-- Settles O34: only `HandlerOutcome.dataFault` latches the bounds fault, and only it stands where an address touched
is out of range. -/
theorem boundsFaultReportsLowestAddress : Obligations.BoundsFaultReportsLowestAddress := by
  intro i s t hexec hs
  rw [← not_dataInBounds_iff]
  cases handlerOutcome_of_exec hexec with
  | dataFault hout =>
    refine ⟨iff_of_true ⟨_, rfl, rfl⟩ hout, fun r hr _ => ?_⟩
    obtain rfl := Option.some.inj hr
    obtain ⟨htouched, hlowest⟩ := max_I_memSize_lowest hout
    exact ⟨rfl, _, rfl, le_max_right _ _, htouched, hlowest⟩
  | @otherFault c hin hc =>
    have hcause : c ≠ .dataOutOfBounds := fun h => by simp [h] at hc
    have hother : ∀ r, some (FaultRecord.mk c s.pc (some (encode i)) none) = some r → r.cause ≠ .dataOutOfBounds :=
      fun r hr => Option.some.inj hr ▸ hcause
    exact ⟨iff_of_false (fun ⟨r, hr, h⟩ => hother r hr h) (not_not.mpr hin), fun r hr h => absurd h (hother r hr)⟩
  | completes hin _ hchange =>
    have hnone : ∀ r, t.fault ≠ some r := fun r hr => by simp [hchange.fault_eq, hs] at hr
    exact ⟨iff_of_false (fun ⟨r, hr, _⟩ => hnone r hr) (not_not.mpr hin), fun r hr => absurd hr (hnone r)⟩

end Sys2Proof.Machine
end

section
/-! PROOF. The step and the call `step(rand)` (40_step_cycle.md, 60_exceptions.md): every step does nothing, latches a
consistent record and nothing else, or runs one handler to its end and ticks. -/

namespace Sys2Proof.Machine

variable {s t : State}

/-! ### What a step comes to -/

/-- The core runs the instruction `i`: it is fetched at pc, and its handler completes in `u`. -/
structure Executes (i : Instr) (s u : State) : Prop where
  running : s.Running
  canFetch : s.CanFetch
  decoded : decode s.fetchWord = some i
  completes : exec i s = .next u
  nextPc : NextPc i s u.pc
  change : Change i s u

/-- The record of a fetch fault is consistent: its address is pc or pc + 1, the first of them out of memory (R142). -/
theorem fetchRecord_consistent {a : Nat} (h : s.fetchFault = some a) :
    FaultRecord.Consistent ⟨.fetchOutOfBounds, s.pc, none, some a⟩ := by
  obtain ⟨hout, ha⟩ := fetchFault_eq_some.mp h
  have hge : Config.memSize ≤ a := by
    unfold State.CanFetch at hout
    split at ha <;> omega
  exact ⟨by simp, by simp, by simpa using hge, by simp⟩

/-- The record of a decode fault is consistent (R121). -/
theorem illegalRecord_consistent (h : decode s.fetchWord = none) :
    FaultRecord.Consistent ⟨.illegalInstruction, s.pc, some s.fetchWord, none⟩ :=
  ⟨by simp, by simp, by simp, by simpa using h⟩

/-- The record of a handler's data fault is consistent: the word is the instruction's own, so it is legal. -/
theorem dataRecord_consistent (i : Instr) (s : State) :
    FaultRecord.Consistent ⟨.dataOutOfBounds, s.pc, some (encode i), some (max s.I.toNat Config.memSize)⟩ :=
  ⟨by simp, by simp, by simp, by simp [decode_encode]⟩

/-- The record of a handler's other faults is consistent. -/
theorem handlerRecord_consistent (i : Instr) (s : State) {c : Fault}
    (hc : c ∉ [Fault.fetchOutOfBounds, .illegalInstruction, .dataOutOfBounds]) :
    FaultRecord.Consistent ⟨c, s.pc, some (encode i), none⟩ := by
  obtain ⟨hfetch, hillegal, hdata⟩ : c ≠ .fetchOutOfBounds ∧ c ≠ .illegalInstruction ∧ c ≠ .dataOutOfBounds := by
    simpa using hc
  exact ⟨by simp [hfetch], by simp [hfetch, hdata], by simp, by simp [decode_encode, hillegal]⟩

/-- Every step answers a next state: the state it began in, when the core does not run; that state with a consistent
record of the instruction at pc; or the end of a completed handler after the tick. -/
theorem step_outcome (s : State) :
    ∃ t, step s = .next t ∧
      ((¬s.Running ∧ t = s) ∨
        (s.Running ∧ ∃ r, t = Latched r s ∧ r.pc = s.pc ∧ r.Consistent) ∨
        ∃ i u, Executes i s u ∧ t = u.finishStep) := by
  obtain ⟨hfault, hstep⟩ | ⟨hstopped, hstep⟩ | ⟨hrun, -, a, ha, hstep⟩ | ⟨hrun, -, hillegal, hstep⟩ |
    ⟨hrun, hfetch, i, hi, hstep⟩ := step_cases s
  · exact ⟨s, hstep, .inl ⟨fun h => hfault h.1, rfl⟩⟩
  · exact ⟨s, hstep, .inl ⟨fun h => Bool.false_ne_true (h.2.symm.trans hstopped), rfl⟩⟩
  · exact ⟨_, hstep, .inr (.inl ⟨hrun, _, rfl, rfl, fetchRecord_consistent ha⟩)⟩
  · exact ⟨_, hstep, .inr (.inl ⟨hrun, _, rfl, rfl, illegalRecord_consistent hillegal⟩)⟩
  · obtain ⟨u, hexec, houtcome⟩ := exec_outcome i s
    rw [hexec] at hstep
    cases houtcome with
    | dataFault =>
      exact ⟨_, hstep.trans (afterExec_of_fault (by simp)), .inr (.inl ⟨hrun, _, rfl, rfl, dataRecord_consistent i s⟩)⟩
    | otherFault _ hc =>
      exact ⟨_, hstep.trans (afterExec_of_fault (by simp)),
        .inr (.inl ⟨hrun, _, rfl, rfl, handlerRecord_consistent i s hc⟩)⟩
    | completes _ hpc hchange =>
      exact ⟨_, hstep.trans (afterExec_of_noFault (hchange.fault_eq.trans hrun.1)),
        .inr (.inr ⟨i, u, ⟨hrun, hfetch, hi, hexec, hpc, hchange⟩, rfl⟩)⟩

/-- `step_outcome` of a step whose answer is known. -/
theorem step_outcome_of_eq (h : step s = .next t) :
    (¬s.Running ∧ t = s) ∨ (s.Running ∧ ∃ r, t = Latched r s ∧ r.pc = s.pc ∧ r.Consistent) ∨
      ∃ i u, Executes i s u ∧ t = u.finishStep := by
  obtain ⟨u, hu, hout⟩ := step_outcome s
  exact Host.Outcome.next.inj (hu.symm.trans h) ▸ hout

/-- A completed handler has latched no fault. -/
theorem Executes.fault_eq {i : Instr} {u : State} (h : Executes i s u) : u.fault = none :=
  h.change.fault_eq.trans h.running.1

/-- Settles O11: each of the three outcomes of `step_outcome` is a next state. -/
theorem stepAlwaysAnswersNext : Obligations.StepAlwaysAnswersNext := by
  intro s
  obtain ⟨t, hstep, -⟩ := step_outcome s
  exact ⟨t, hstep⟩

/-- Settles O12: of the three outcomes of `step_outcome` only the second changes the fault field. -/
theorem faultEntryIsAtomic : Obligations.FaultEntryIsAtomic := by
  intro s t hstep hne
  obtain ⟨-, rfl⟩ | hlatched | ⟨i, u, hexec, rfl⟩ := step_outcome_of_eq hstep
  · exact absurd rfl hne
  · exact hlatched
  · exact absurd (hexec.fault_eq.trans hexec.running.1.symm) hne

/-! ### The step of a decoded instruction -/

/-- The tick counts each timer down by one unless it is 0 (R147). -/
theorem countDown_toNat_eq_ite (b : Byte) :
    (countDown b).toNat = if b.toNat ≠ 0 then b.toNat - 1 else b.toNat := by
  rw [countDown_toNat]
  split <;> omega

/-- Settles O6: `step_of_decode`, then the two cases of `afterExec`. -/
theorem stepRunsDecodedInstruction : Obligations.StepRunsDecodedInstruction := by
  intro s i w hrun hfetch hw hdecode t hexec
  obtain rfl : s.fetchWord = w := State.fetchWord_eq_of_toNat hw
  have hstep : step s = afterExec (.next t) := hexec ▸ step_of_decode hrun hfetch hdecode
  exact ⟨fun hfault => hstep.trans (afterExec_of_fault hfault), fun hfault =>
    ⟨_, hstep.trans (afterExec_of_noFault hfault), countDown_toNat t.delayT, countDown_toNat t.soundT, rfl⟩⟩

/-! ### The call `step(rand)` -/

/-- What the step inside the call answers, the call answers with an empty port. -/
theorem stepWith_of_step {rand : Byte} (h : step (s.setRand (some rand)) = .next t) :
    stepWith rand s = .next (t.setRand none) := by
  rw [stepWith, h, mapNext]

/-- When the step inside the call latches a record, the call latches it in the state with the empty port it found. -/
theorem stepWith_of_latch {rand : Byte} {r : FaultRecord} (hport : s.rand = none)
    (h : step (s.setRand (some rand)) = .next ((s.setRand (some rand)).latch r)) :
    stepWith rand s = .next (Latched r s) := by
  rw [stepWith_of_step h]
  exact congrArg (fun u => Host.Outcome.next (Latched r u)) (setRand_none_of_rand hport)

/-- Settles O7: each case of the step, run on the state with the draw on its port. -/
theorem stepCallFollowsTheCycle : Obligations.StepCallFollowsTheCycle := by
  intro s rand hport
  refine ⟨fun hfault => stepWith_of_noOp hport (step_of_fault hfault),
    fun _ hstopped => stepWith_of_noOp hport (step_of_stopped hstopped),
    fun hrun hpc => stepWith_of_latch hport (step_of_fetchFault hrun ?_),
    fun hrun hfetch w hw => ⟨fun hillegal => ?_, fun i hdecode => ?_⟩⟩
  · exact fetchFault_eq_some.mpr ⟨Nat.not_lt.mpr hpc, rfl⟩
  · obtain rfl : s.fetchWord = w := State.fetchWord_eq_of_toNat hw
    exact stepWith_of_latch hport (step_of_illegal (s := s.setRand (some rand)) hrun hfetch hillegal)
  · obtain rfl : s.fetchWord = w := State.fetchWord_eq_of_toNat hw
    obtain ⟨t, hexec, -⟩ := exec_outcome i (s.setRand (some rand))
    have hstep : step (s.setRand (some rand)) = afterExec (.next t) := hexec ▸ step_of_decode hrun hfetch hdecode
    exact ⟨t, hexec, fun hfault => stepWith_of_step (hstep.trans (afterExec_of_fault hfault)), fun hfault =>
      ⟨_, stepWith_of_step (hstep.trans (afterExec_of_noFault hfault)), countDown_toNat_eq_ite t.delayT,
        countDown_toNat_eq_ite t.soundT, rfl⟩⟩

/-! ### After a fault -/

/-- Settles O13: `step_of_fault` for the step, also inside the call `step(rand)`; the other calls check the fault field
first, or do not touch it. -/
theorem latchedFaultIsPermanent : Obligations.LatchedFaultIsPermanent := by
  intro s
  refine ⟨rfl, fun hfault => ?_⟩
  have hsome : s.fault.isSome = true := Option.isSome_iff_ne_none.mpr hfault
  refine ⟨step_of_fault hfault, fun bytes => by simp [hostCall, load, hsome],
    fun e => by simp [hostCall, handleInput, hsome], fun c t hcall => ?_⟩
  obtain ⟨rand, u, rfl, hstep, rfl⟩ | ⟨_, -, hnone, -⟩ | ⟨_, -, hnone, -⟩ | ⟨_, -, hnone, -⟩ | ⟨-, rfl⟩ :=
    hostCall_cases hcall
  · rw [step_of_fault (s := s.setRand (some rand)) hfault] at hstep
    rw [← Host.Outcome.next.inj hstep]
    rfl
  · exact absurd hnone hfault
  · exact absurd hnone hfault
  · exact absurd hnone hfault
  · rfl

/-! ### The beep -/

/-- Settles O15: the sound timer ends at 1 - 1 by `timersTickOncePerExecutedStep`. -/
theorem beepEndsAtTheTickFromOne : Obligations.BeepEndsAtTheTickFromOne := by
  intro s t i hrun hfetch hdecode hi hstep hfault hone
  obtain ⟨-, hsound⟩ := timersTickOncePerExecutedStep s t i hrun hfetch hdecode hstep hfault
  have hzero : t.soundT = 0 := by
    refine BitVec.eq_of_toNat_eq (hsound.trans ?_)
    split
    · exact absurd rfl (hi _)
    · rw [hone]; rfl
  exact ⟨by rw [State.beep, hone]; rfl, by rw [State.beep, hzero]; rfl⟩

end Sys2Proof.Machine
end

section
/-! PROOF. The canonical form of memory determines it, and what memory holds after reset and construction
(10_state.md section 9, 70_reset_and_hazards.md section 1). -/

namespace Sys2Proof.Machine

/-! ### The canonical form -/

/-- Of two canonical memories that read the same, neither lists an address below those the other can list: the byte
listed there is not the unlisted value, which the other memory reads there. -/
theorem Memory.le_head_of_read_eq {lo lo' k : Nat} {b : Byte} {m m' : Memory}
    (h : Memory.wfFrom lo ((k, b) :: m) = true) (h' : Memory.wfFrom lo' m' = true)
    (hread : ∀ a, Memory.read ((k, b) :: m) a = m'.read a) : lo' ≤ k := by
  obtain ⟨-, -, hb, -⟩ := Memory.wfFrom_cons.mp h
  by_contra hlt
  have hk : Memory.read ((k, b) :: m) k = b := if_pos rfl
  exact hb (hk.symm.trans ((hread k).trans (Memory.read_of_lt h' (Nat.not_le.mp hlt))))

/-- Memories that are canonical from `lo` on and read the same are the same. -/
theorem Memory.eq_of_read_eq {lo : Nat} {m m' : Memory} (h : Memory.wfFrom lo m = true)
    (h' : Memory.wfFrom lo m' = true) (hread : ∀ a, m.read a = m'.read a) : m = m' := by
  induction m generalizing lo m' with
  | nil =>
    cases m' with
    | nil => rfl
    | cons e m' =>
      exact absurd (Memory.le_head_of_read_eq h' (Memory.wfFrom_nil (e.1 + 1)) fun a => (hread a).symm) (by simp)
  | cons e m ih =>
    obtain ⟨k, b⟩ := e
    cases m' with
    | nil => exact absurd (Memory.le_head_of_read_eq h (Memory.wfFrom_nil (k + 1)) hread) (by simp)
    | cons e' m' =>
      obtain ⟨k', b'⟩ := e'
      obtain ⟨-, hk, hb, hm⟩ := Memory.wfFrom_cons.mp h
      obtain ⟨-, hk', hb', hm'⟩ := Memory.wfFrom_cons.mp h'
      obtain rfl : k = k' := Nat.le_antisymm
        (Memory.le_head_of_read_eq h' (Memory.wfFrom_cons.mpr ⟨le_rfl, hk, hb, hm⟩) fun a => (hread a).symm)
        (Memory.le_head_of_read_eq h (Memory.wfFrom_cons.mpr ⟨le_rfl, hk', hb', hm'⟩) hread)
      obtain rfl : b = b' := by simpa [Memory.read] using hread k
      rw [ih hm hm' fun a => ?_]
      by_cases ha : a = k
      · rw [Memory.read_of_lt hm (by omega), Memory.read_of_lt hm' (by omega)]
      · simpa [Memory.read, ha] using hread a

/-- Settles O55: `Memory.eq_of_read_eq`, canonical from address 0 on. -/
theorem canonicalMemoriesAreEqual : Obligations.CanonicalMemoriesAreEqual :=
  fun _ _ h h' hread => Memory.eq_of_read_eq h h' hread

/-! ### Reset and construction -/

/-- From 80 on, an unlisted address reads 0. -/
theorem Memory.unlisted_of_ge {a : Nat} (h : 80 ≤ a) : Memory.unlisted a = 0 := if_neg (Nat.not_lt.mpr h)

/-- Below 80, an unlisted address reads the default FONT. -/
theorem Memory.unlisted_font (a : Fin 80) : Memory.unlisted a.val = Config.default.font[a] := by
  simp [Memory.unlisted, Config.default, Config.fontSize]

/-- Settles O52: the framebuffer, the stack and the keypad are constant vectors, and memory lists nothing. -/
theorem resetDefaults : Obligations.ResetDefaults :=
  ⟨rfl, fun k => Vector.getElem_replicate k.isLt, rfl, rfl, cell_clear, fun k => Vector.getElem_replicate k.isLt, rfl,
    rfl, rfl, rfl, Memory.unlisted_font, fun _ h _ => Memory.unlisted_of_ge h, rfl⟩

/-- The font of a core fits below MEM_SIZE. -/
theorem font_fits (c : Config) : Config.fontBase + c.font.toList.length ≤ Config.memSize := by
  simp [Config.fontBase, Config.memSize]

/-- Settles O53: construction writes the 80 bytes of FONT at 0 over a memory that lists nothing. -/
theorem constructionInstallsTheFont : Obligations.ConstructionInstallsTheFont := by
  intro c
  refine ⟨fun g k => ?_, fun a ha => ?_, rfl, rfl⟩
  · have hk : 5 * g.val + k.val < c.font.toList.length := by rw [Vector.length_toList]; omega
    have hread := Memory.read_writeBytes_inside (Memory.wfFrom_nil 0) (font_fits c) hk
    rw [Config.fontBase, Nat.zero_add] at hread
    exact hread.trans (Vector.getElem_toList hk)
  · have hout : a < Config.fontBase ∨ Config.fontBase + c.font.toList.length ≤ a := .inr (by simpa [Config.fontBase])
    exact (Memory.read_writeBytes_outside (Memory.wfFrom_nil 0) (font_fits c) hout).trans (Memory.unlisted_of_ge ha)

/-- Settles O54: the word at 0x200 is 0x0000 and illegal, so the step is `step_of_illegal`. -/
theorem unloadedCoreFaultsAtOnce : Obligations.UnloadedCoreFaultsAtOnce :=
  step_of_illegal (s := State.reset) ⟨rfl, rfl⟩ (by unfold State.CanFetch; decide) (by decide)

end Sys2Proof.Machine
end

section
/-! PROOF. The invariant: it holds after reset and construction, and every step and every host call keeps it
(10_state.md section 3, 41_control_transfer.md section 2, 70_reset_and_hazards.md). -/

namespace Sys2Proof.Machine

variable {i : Instr} {s t : State} {pc : Word}

/-! ### The next pc is the exact sum (10_state.md R43) -/

/-- A sum with an address at which a fetch can succeed does not wrap. -/
theorem add_toNat_of_fetchable {a : Word} (ha : a.toNat ≤ 0xFFE) :
    (a + 2).toNat = a.toNat + 2 ∧ (a + 4).toNat = a.toNat + 4 := by
  constructor <;> bv_omega

theorem pc_le_of_canFetch (h : s.CanFetch) : s.pc.toNat ≤ 0xFFE := by
  simp only [State.CanFetch, Config.memSize] at h
  omega

/-- No next pc is above 0x10FE, the sum of the highest jump target and the highest V0. -/
theorem NextPc.le (h : NextPc i s pc) (hinv : s.Inv) (hfetch : s.CanFetch) : pc.toNat ≤ 0x10FE := by
  unfold NextPc at h
  split at h
  case h_1 =>
    obtain ⟨k, -, rfl⟩ := h
    have hk := hinv.stackBound k
    rw [(add_toNat_of_fetchable hk).1]
    omega
  case h_2 | h_3 => rw [h, zext16_toNat]; omega
  case h_4 => rw [h, zext16_add_byte_toNat]; omega
  case h_5 =>
    have hpc := pc_le_of_canFetch hfetch
    obtain ⟨htwo, hfour⟩ := add_toNat_of_fetchable hpc
    obtain rfl | rfl := h <;> omega

/-- An instruction that is no jump, call or return goes on two or four bytes further. -/
theorem NextPc.of_noTransfer (h : NextPc i s pc) (hjp : ∀ nnn, i ≠ .jp nnn) (hcall : ∀ nnn, i ≠ .call nnn)
    (hjpV0 : ∀ nnn, i ≠ .jpV0 nnn) (hret : i ≠ .ret) : pc = s.pc + 2 ∨ pc = s.pc + 4 := by
  unfold NextPc at h
  split at h
  next => exact absurd rfl hret
  next nnn => exact absurd rfl (hjp nnn)
  next nnn => exact absurd rfl (hcall nnn)
  next nnn => exact absurd rfl (hjpV0 nnn)
  next => exact h

/-- Settles O59: the handler completes with `NextPc`, whose sums are exact under the invariant. -/
theorem pcSumsNeverWrap : Obligations.PcSumsNeverWrap := by
  intro s t i hinv hrun hfetch hdecode hstep hfault
  obtain ⟨hnot, -⟩ | ⟨-, r, rfl, -⟩ | ⟨j, u, hexec, rfl⟩ := step_outcome_of_eq hstep
  · exact absurd hrun hnot
  · cases hfault
  obtain rfl : j = i := Option.some.inj (hexec.decoded.symm.trans hdecode)
  have hnext : NextPc j s u.pc := hexec.nextPc
  refine ⟨hnext.le hinv hfetch, fun hjp hcall hjpV0 hret => ?_, ?_, ?_, ?_⟩
  · obtain ⟨htwo, hfour⟩ := add_toNat_of_fetchable (pc_le_of_canFetch hfetch)
    rw [← htwo, ← hfour, finishStep_pc]
    exact (hnext.of_noTransfer hjp hcall hjpV0 hret).imp (congrArg _) (congrArg _)
  · rintro rfl
    obtain ⟨k, hk, hpc⟩ := hnext
    exact ⟨k, hk, (congrArg _ hpc).trans (add_toNat_of_fetchable (hinv.stackBound k)).1⟩
  · rintro nnn rfl
    exact (congrArg _ hnext).trans (zext16_add_byte_toNat nnn (s.readV 0))
  · rintro nnn (rfl | rfl) <;> exact (congrArg _ hnext).trans (zext16_toNat nnn)

/-! ### Reset and construction -/

/-- A reset state over any canonical memory meets the invariant. -/
theorem inv_reset_withMem {m : Memory} (hm : m.wf = true) (p : EdgePolicy) :
    State.Inv { State.reset with mem := m, edgePolicy := p } where
  memCanonical := hm
  pcBound := (by decide : (0x200 : Word).toNat ≤ 0x10FE)
  stackBound k := by
    have hzero : State.reset.stack[k] = 0 := Vector.getElem_replicate k.isLt
    simp [hzero]
  faultRecord := by simp [State.reset]

/-- Settles O56: the reset memory lists nothing. -/
theorem resetMeetsTheInvariant : Obligations.ResetMeetsTheInvariant := inv_reset_withMem (Memory.wfFrom_nil 0) .wrap

/-! ### The steps -/

/-- The invariant reads memory, pc, the stack, the fault record and `stopped`; a key wait that ends does not harm it. -/
theorem State.Inv.congr (h : s.Inv) (hmem : t.mem = s.mem) (hpc : t.pc = s.pc) (hstack : t.stack = s.stack)
    (hfault : t.fault = s.fault) (hstopped : s.stopped = false → t.stopped = false) : t.Inv where
  memCanonical := hmem ▸ h.memCanonical
  pcBound := hpc ▸ h.pcBound
  stackBound := hstack ▸ h.stackBound
  faultRecord r hr := by
    obtain ⟨hr, hrpc, hrun⟩ := h.faultRecord r (hfault ▸ hr)
    exact ⟨hr, hrpc.trans hpc.symm, hstopped hrun⟩

/-- A consistent record at pc, latched in a running core, keeps the invariant. -/
theorem State.Inv.latched (h : s.Inv) (hrun : s.Running) {r : FaultRecord} (hpc : r.pc = s.pc) (hr : r.Consistent) :
    (Latched r s).Inv where
  memCanonical := h.memCanonical
  pcBound := h.pcBound
  stackBound := h.stackBound
  faultRecord _ hq := Option.some.inj hq ▸ ⟨hr, hpc, hrun.2⟩

/-- What every kind of change leaves of the invariant, apart from pc: memory stays canonical, and a new stack entry is
the pc of a fetch that succeeded. -/
theorem Change.inv (hchange : Change i s t) (h : s.Inv) (hrun : s.Running) (hfetch : s.CanFetch)
    (hpc : t.pc.toNat ≤ 0x10FE) : t.Inv where
  memCanonical := by
    cases hchange with
    | memory _ hwf => exact hwf h.memCanonical
    | registers | index | stack | display | timers | keyWait => exact h.memCanonical
  pcBound := hpc
  stackBound k := by
    cases hchange with
    | stack _ hentries =>
      obtain hk | hk := hentries k <;> simp only [hk]
      · exact pc_le_of_canFetch hfetch
      · exact h.stackBound k
    | registers | index | memory | display | timers | keyWait => exact h.stackBound k
  faultRecord r hr := by
    rw [hchange.fault_eq, hrun.1] at hr
    cases hr

/-- Every step keeps the invariant, by the three outcomes of a step. -/
theorem step_keeps_inv (h : s.Inv) (hstep : step s = .next t) : t.Inv := by
  obtain ⟨-, rfl⟩ | ⟨hrun, r, rfl, hpc, hr⟩ | ⟨i, u, hexec, rfl⟩ := step_outcome_of_eq hstep
  · exact h
  · exact h.latched hrun hpc hr
  · have hu : u.Inv := hexec.change.inv h hexec.running hexec.canFetch (hexec.nextPc.le h hexec.canFetch)
    exact hu.congr rfl rfl rfl rfl id

/-- Settles O57: `step_keeps_inv`. -/
theorem stepKeepsTheInvariant : Obligations.StepKeepsTheInvariant := fun _ _ => step_keeps_inv

/-! ### The host calls -/

theorem pressKey_keeps_inv (h : s.Inv) (k : Reg) : (s.pressKey k).Inv := by
  unfold State.pressKey
  split
  · exact h.congr rfl rfl rfl rfl fun _ => rfl
  · exact h.congr rfl rfl rfl rfl id

/-- Settles O58: a constructed core holds a font that fits in memory; of the calls only the step and `load` touch what
the invariant is about, and an accepted image fits. -/
theorem hostCallsKeepTheInvariant : Obligations.HostCallsKeepTheInvariant := by
  refine ⟨fun c => inv_reset_withMem (Memory.writeBytes_wf _ (Memory.wfFrom_nil 0) (font_fits c)) c.edgePolicy,
    fun c s t h hcall => ?_⟩
  obtain ⟨rand, u, -, hstep, rfl⟩ | ⟨bytes, -, -, hfit, rfl⟩ | ⟨k, -, -, rfl⟩ | ⟨k, -, -, rfl⟩ | ⟨-, rfl⟩ :=
    hostCall_cases hcall
  · have hport : (s.setRand (some rand)).Inv := h.congr rfl rfl rfl rfl id
    exact (step_keeps_inv hport hstep).congr rfl rfl rfl rfl id
  · have hend : Config.progStart + bytes.length ≤ Config.memSize := Nat.add_le_add_left hfit 0x200
    exact { h with memCanonical := Memory.writeBytes_wf bytes h.memCanonical hend }
  · exact pressKey_keeps_inv h k
  · exact h.congr rfl rfl rfl rfl id
  · exact h.congr rfl rfl rfl rfl id

/-- Settles O60, by induction on the calls that reach the state. -/
theorem reachableStatesMeetTheInvariant : Obligations.ReachableStatesMeetTheInvariant := by
  intro s hs
  induction hs with
  | construct c => exact hostCallsKeepTheInvariant.1 c
  | call c _ hcall ih => exact hostCallsKeepTheInvariant.2 c _ _ ih hcall

end Sys2Proof.Machine
end

section
/-! PROOF. The remaining instructions: the return after its call, the key skips, CXNN, FX1E, and a store of the next
instruction (41_control_transfer.md, 43_alu.md, 44_index_memory.md, 46_timers_keypad.md, 20_memory.md section 8). -/

namespace Sys2Proof.Machine

/-! ### The return after its call -/

/-- Settles O19: `callPushesItsAddress` leaves the call's address in entry k and SP at k + 1, and `returnPopsTheAddress`
takes that entry. -/
theorem returnResumesAfterTheCall : Obligations.ReturnResumesAfterTheCall := by
  intro nnn s t u k hk hcall hsp hentry
  obtain ⟨-, hpush, -⟩ := callPushesItsAddress nnn s
  obtain ⟨t', hcall', -, htsp, hstack, -⟩ := hpush (hk ▸ k.isLt)
  obtain rfl : t' = t := Host.Outcome.next.inj (hcall'.symm.trans hcall)
  obtain ⟨-, hpop, -⟩ := returnPopsTheAddress u
  obtain ⟨v, hret, hpc, hvsp, -, -⟩ := hpop k (by rw [hsp, htsp, hk])
  refine ⟨v, hret, ?_, Fin.ext (hvsp.trans hk.symm)⟩
  rw [hpc, hentry, hstack k, if_pos hk.symm]

/-! ### The key skips -/

/-- Settles O21: on a key each of the two moves on by four or two bytes, and above 15 it latches its fault. -/
theorem keySkipsTestTheKeypad : Obligations.KeySkipsTestTheKeypad := by
  intro x s
  refine ⟨encodedAs_keyRow 0x9E rfl rfl, encodedAs_keyRow 0xA1 rfl rfl, fun k hk => ⟨?skp, ?sknp⟩,
    fun hout => ⟨execSkp_noKey x hout, execSknp_noKey x hout⟩⟩
  case skp =>
    refine ⟨_, execSkp_key x hk, ?_, changesOnlyRegs_advance s _⟩
    exact congrArg (s.pc + ·) (apply_ite (BitVec.ofNat 16) ..)
  case sknp =>
    refine ⟨_, execSknp_key x hk, ?_, changesOnlyRegs_advance s _⟩
    exact congrArg (s.pc + ·) (apply_ite (BitVec.ofNat 16) ..)

/-! ### The draw under the mask -/

/-- Settles O27: `writeResult_completes` for the draw under the mask, and `BitVec.getElem_and` for its bits. -/
theorem randomByteUnderMask : Obligations.RandomByteUnderMask := by
  intro x nn s
  obtain ⟨t, hexec, hvalue, hrest⟩ := writeResult_completes x (s.draw &&& nn) s
  have hbit (k : Fin 8) : (t.readV x)[k] = (s.draw[k] && nn[k]) := hvalue ▸ BitVec.getElem_and k.isLt
  refine ⟨encodedAs_rnd x nn, t, hexec, fun rand hrand k => ?_, fun hrand k => ?_, fun k hk => ?_, hrest⟩
  · rw [hbit, State.draw, hrand]
  · rw [hbit, State.draw, hrand]
  · rw [hbit, hk, Bool.and_false]

/-! ### The index register -/

/-- A new I and then a new VF change nothing but the two. -/
theorem changesOnlyIndex_setI_setFlag (s : State) (a : Word) (flag : Bool) (k : Nat) :
    ChangesOnlyIndex [Reg.vf] s (((s.setI a).setFlag flag).advance k) :=
  ⟨fun _ hr => readV_writeV_ne _ _ (List.ne_of_not_mem_cons hr), fun _ => rfl, ⟨rfl, rfl⟩, ⟨rfl, rfl⟩,
    ⟨fun _ => rfl, rfl⟩, ⟨rfl, rfl, rfl⟩, rfl, rfl, rfl, rfl⟩

/-- Settles O30: the sum is taken modulo 65536 by `BitVec.toNat_add`, and the flag is that of the exact sum. -/
theorem addIndexSetsOverflowFlag : Obligations.AddIndexSetsOverflowFlag := by
  intro x s
  have hbyte : ((s.readV x).setWidth 16).toNat = (s.readV x).toNat := BitVec.toNat_setWidth_of_le (by decide)
  refine ⟨encodedAs_miscRow 0x1E rfl rfl, _, rfl, ?_, ?_, rfl, changesOnlyIndex_setI_setFlag s _ _ 2⟩
  · exact (BitVec.toNat_add ..).trans (by rw [hbyte])
  · rw [advance_readV, readV_setFlag, if_pos rfl, indexOverflow, flagByte_decide_toNat]

/-! ### Stored code -/

/-- Settles O35: FX55 leaves V0 and V1 at the next pc by `storeRegistersToMemory`, and the fetch reads these two
bytes. -/
theorem storedCodeIsFetched : Obligations.StoredCodeIsFetched := by
  intro x s t hmem hx hin hI hexec
  obtain ⟨-, hstore, -⟩ := storeRegistersToMemory x s hmem
  obtain ⟨t', hexec', hread, hpc, -⟩ := hstore hin
  obtain rfl : t' = t := Host.Outcome.next.inj (hexec'.symm.trans hexec)
  have hfirst : t'.mem.read (s.I.toNat + 0) = s.readV 0 := hread 0 (Fin.zero_le x)
  have hsecond : t'.mem.read (s.I.toNat + 1) = s.readV 1 := hread 1 (Fin.one_le_of_ne_zero hx)
  rw [fetchWord_toNat, hpc, ← hI, hsecond]
  exact congrArg (·.toNat * 256 + _) hfirst

end Sys2Proof.Machine
end

section
/-! PROOF. The key wait and the key events (46_timers_keypad.md sections 3 and 4). -/

namespace Sys2Proof.Machine

/-- Settles O42: the handler writes `stopped`, `wait_x` and pc, and every other field is the old one. -/
theorem keyWaitStopsTheCore : Obligations.KeyWaitStopsTheCore := by
  intro x s
  exact ⟨encodedAs_miscRow 0x0A rfl rfl, _, rfl, rfl, rfl, rfl, rfl, fun _ _ => rfl, rfl, fun _ => rfl, ⟨rfl, rfl⟩,
    ⟨rfl, rfl⟩, ⟨fun _ => rfl, rfl⟩, rfl, rfl, rfl, rfl⟩

/-- A run whose first step answers `u` is the rest of the run from `u`. -/
theorem run_succ_of_next {M : Host.Core} {s u : M.State} (h : M.step s = .next u) (k : Nat) :
    M.run (k + 1) s = M.run k u := by
  rw [Host.Core.run, h]

/-- Settles O43, by induction on the number of steps: each answers the state it began in. -/
theorem keyWaitHoldsForever : Obligations.KeyWaitHoldsForever := by
  intro s k hstopped
  induction k with
  | zero => rfl
  | succ k ih =>
    have hstep : core.step s = .next s := step_of_stopped hstopped
    exact (run_succ_of_next hstep k).trans ih

/-- Only FX0A stops the core, and it loads its X into the latch. -/
theorem Change.stopped {i : Instr} {s t : State} (h : Change i s t) (hrun : s.stopped = false)
    (hstopped : t.stopped = true) : i = .ldVxK t.waitX := by
  cases h with
  | keyWait hi => exact hi
  | registers | index | stack | memory | display | timers =>
    exact absurd (hrun.symm.trans hstopped) Bool.false_ne_true

/-- A step that stops the core has run FX0A. -/
theorem step_stops {s t : State} (hstep : step s = .next t) (hrun : s.stopped = false) (hstopped : t.stopped = true) :
    s.CanFetch ∧ decode s.fetchWord = some (.ldVxK t.waitX) := by
  obtain ⟨-, rfl⟩ | ⟨-, r, rfl, -⟩ | ⟨i, u, hexec, rfl⟩ := step_outcome_of_eq hstep
  · exact absurd (hrun.symm.trans hstopped) Bool.false_ne_true
  · exact absurd (hrun.symm.trans hstopped) Bool.false_ne_true
  · exact ⟨hexec.canFetch, hexec.change.stopped hrun hstopped ▸ hexec.decoded⟩

/-- A key event sets or clears its key and no other. -/
theorem getElem_setKey (s : State) (k : Reg) (b : Bool) (j : Fin 16) :
    (s.setKey k b).keypad[j] = if j.val = k.val then b else s.keypad[j] := by
  simp only [setKey_keypad, Fin.getElem_fin, Vector.getElem_set, eq_comm]

theorem pressKey_of_stopped {s : State} (h : s.stopped = true) (k : Reg) :
    s.pressKey k = { (s.setKey k true).writeV s.waitX (BitVec.ofNat 8 k.val) with stopped := false } := if_pos h

theorem pressKey_of_running {s : State} (h : s.stopped = false) (k : Reg) : s.pressKey k = s.setKey k true :=
  if_neg (by simp [h])

/-- A core never waits after a Down event (R316). -/
theorem pressKey_stopped (s : State) (k : Reg) : (s.pressKey k).stopped = false := by
  cases h : s.stopped
  · rw [pressKey_of_running h, setKey_stopped, h]
  · rw [pressKey_of_stopped h]

/-- Settles O44: of the accepted calls, a step stops the core only by FX0A and never lets it go on, a Down event leaves
it running, and the others do not change `stopped`. -/
theorem keyWaitTransitions : Obligations.KeyWaitTransitions := by
  intro s t c hcall
  have same (h : t.stopped = s.stopped) {p q : Prop} :
      (s.stopped = false → t.stopped = true → p) ∧ (s.stopped = true → t.stopped = false → q) := by
    rw [h]
    exact ⟨fun hf ht => absurd (hf.symm.trans ht) Bool.false_ne_true,
      fun ht hf => absurd (hf.symm.trans ht) Bool.false_ne_true⟩
  rw [← and_assoc]
  refine ⟨?_, step_of_stopped⟩
  obtain ⟨rand, u, rfl, hstep, rfl⟩ | ⟨bytes, -, -, -, rfl⟩ | ⟨k, rfl, -, rfl⟩ | ⟨k, -, -, rfl⟩ | ⟨-, rfl⟩ :=
    hostCall_cases hcall
  · refine ⟨fun hrun hstopped => ?_, fun hstopped hrun => ?_⟩
    · obtain ⟨hfetch, hdecode⟩ := step_stops hstep hrun hstopped
      exact ⟨hfetch, rand, _, rfl, hdecode, rfl⟩
    · rw [step_of_stopped (s := s.setRand (some rand)) hstopped] at hstep
      rw [← Host.Outcome.next.inj hstep] at hrun
      exact absurd (hrun.symm.trans hstopped) Bool.false_ne_true
  · exact same rfl
  · exact ⟨fun _ hstopped => absurd ((pressKey_stopped s k).symm.trans hstopped) Bool.false_ne_true,
      fun _ _ => ⟨k.val, k.isLt, rfl⟩⟩
  · exact same rfl
  · exact same rfl

/-! ### The key events -/

theorem handleInput_down {s : State} (hs : s.fault = none) {k : Nat} (hk : k < 16) :
    handleInput (.down k) s = .accepted (s.pressKey ⟨k, hk⟩) := by
  simp [handleInput, hs, Config.numKeys, hk]

theorem handleInput_up {s : State} (hs : s.fault = none) {k : Nat} (hk : k < 16) :
    handleInput (.up k) s = .accepted (s.releaseKey ⟨k, hk⟩) := by
  simp [handleInput, hs, Config.numKeys, hk]

/-- An event whose index is above 15 is rejected in every state (R318). -/
theorem handleInput_of_noKey {e : KeyEvent} (h : 16 ≤ e.key) (s : State) : handleInput e s = .rejected := by
  cases e with
  | down k | up k =>
    have hk : ¬k < 16 := Nat.not_lt.mpr h
    simp [handleInput, Config.numKeys, hk]

/-- Settles O45: the event in a waiting core, and in a running one. -/
theorem keyDownEndsTheWait : Obligations.KeyDownEndsTheWait := by
  intro s k hs
  refine ⟨fun hk => ⟨_, handleInput_down hs hk, ?_⟩, fun hk => handleInput_of_noKey (e := .down k) hk s⟩
  cases hstopped : s.stopped
  case true =>
    rw [pressKey_of_stopped hstopped]
    refine ⟨getElem_setKey s ⟨k, hk⟩ true, rfl, fun _ => ⟨?_, fun r hr => ?_⟩, nofun, rfl, rfl, rfl, fun _ => rfl,
      ⟨rfl, rfl⟩, ⟨rfl, rfl⟩, ⟨fun _ => rfl, rfl⟩, rfl, rfl, rfl, rfl⟩
    · have hbyte := readV_writeV_self (s.setKey ⟨k, hk⟩ true) s.waitX (BitVec.ofNat 8 k)
      exact (congrArg BitVec.toNat hbyte).trans (Nat.mod_eq_of_lt (by omega))
    · exact readV_writeV_ne (s.setKey ⟨k, hk⟩ true) _ (List.ne_of_not_mem_cons hr)
  case false =>
    rw [pressKey_of_running hstopped]
    exact ⟨getElem_setKey s ⟨k, hk⟩ true, hstopped, nofun, fun _ _ _ => rfl, rfl, rfl, rfl, fun _ => rfl,
      ⟨rfl, rfl⟩, ⟨rfl, rfl⟩, ⟨fun _ => rfl, rfl⟩, rfl, rfl, rfl, rfl⟩

/-- Settles O46: the event is `setKey`, and `getElem_setKey` reads the keys after it. -/
theorem keyUpClearsItsKey : Obligations.KeyUpClearsItsKey := by
  intro s k hs
  exact ⟨fun hk => ⟨_, handleInput_up hs hk, getElem_setKey s ⟨k, hk⟩ false, rfl, rfl⟩,
    fun hk => handleInput_of_noKey (e := .up k) hk s⟩

end Sys2Proof.Machine
end

section
/-! PROOF. DXYN (45_display.md): the sprite's pixels and their targets in the words of the statements, the distinctness
of the target cells, and what a draw does to the frame and to VF. -/

namespace Sys2Proof.Machine

variable {x y : Reg} {n : BitVec 4} {s t : State}

/-! ### The pixels and their targets -/

theorem Memory.getElem_readBytes (m : Memory) (a : Nat) {n r : Nat} (h : r < (m.readBytes a n).length) :
    (m.readBytes a n)[r] = m.read (a + r) := by
  simp [Memory.readBytes_eq]

/-- The pixels that DXYN places are the 1-bits of its rows (R272, R273, R274). -/
theorem spritePixel_iff {px py : Nat} : SpritePixel s x y n px py ↔ (px, py) ∈ s.drawPixels x y n := by
  simp only [SpritePixel, State.drawPixels, State.bytesAtI, mem_spritePixels, Memory.getElem_readBytes,
    Memory.readBytes_length, BitVec.getLsbD, Nat.testBit_eq_decide_div_mod_eq, decide_eq_true_eq, Prod.mk.injEq,
    exists_prop, exists_and_left]

/-- The cell of a pixel is that of the policy's table (R275). -/
theorem target_eq_cell {p : EdgePolicy} {px py : Nat} {k : Fin 2048} :
    target p px py = .cell k ↔ PixelCell p px py k.val := by
  cases p with
  | wrap => simp [target, PixelCell, Fin.ext_iff, eq_comm]
  | clip | fault =>
    by_cases h : px < 64 ∧ py < 32
    · simp [target, PixelCell, h, Fin.ext_iff, eq_comm]
    · simp only [target, PixelCell, dif_neg h, reduceCtorEq, false_iff]
      omega
  | linear =>
    by_cases h : px + 64 * py < 2048
    · simp [target, PixelCell, h, Fin.ext_iff, eq_comm]
    · simp only [target, PixelCell, dif_neg h, reduceCtorEq, false_iff]
      omega

/-- The target of a pixel is FAULT exactly where the policy's table says so (R275). -/
theorem target_eq_fault {p : EdgePolicy} {px py : Nat} : target p px py = .fault ↔ PixelFaults p px py := by
  cases p with
  | wrap => simp [target, PixelFaults]
  | clip => by_cases h : px < 64 ∧ py < 32 <;> simp [target, PixelFaults, h]
  | fault => by_cases h : px < 64 ∧ py < 32 <;> simp [target, PixelFaults, h]
  | linear =>
    by_cases h : px + 64 * py < 2048
    · simp [target, PixelFaults, h]
    · simp [target, PixelFaults, h, Nat.not_lt.mp h]

/-- The targets are refused exactly when a pixel of the sprite faults. -/
theorem spriteFaults_iff : SpriteFaults s x y n ↔ collectTargets s.edgePolicy (s.drawPixels x y n) = none := by
  simp only [SpriteFaults, collectTargets_eq_none, Prod.exists, spritePixel_iff, target_eq_fault]

/-- The cells a sprite hits are the target cells. -/
theorem spriteHits_iff {ts : List (Fin 2048)} (h : collectTargets s.edgePolicy (s.drawPixels x y n) = some ts)
    (k : Fin 2048) : SpriteHits s x y n k ↔ k ∈ ts := by
  simp only [SpriteHits, mem_collectTargets h, Prod.exists, spritePixel_iff, target_eq_cell]

/-- The check of the sprite's bytes admits no bytes at all, or bytes that end in memory (R85). -/
theorem dataInBounds_nibble : s.DataInBounds n.toNat ↔ n = 0 ∨ s.I.toNat + n.toNat ≤ 4096 :=
  or_congr_left (BitVec.toNat_eq (x := n) (y := 0)).symm

/-! ### The target cells are distinct -/

theorem rowPixels_nodup (x0 y0 : Nat) (b : Byte) : (rowPixels x0 y0 b).Nodup :=
  (List.nodup_range.filter _).map fun _ _ h => Nat.add_left_cancel (Prod.mk.inj h).1

/-- No two 1-bits of a sprite stand at the same coordinates: each row lies below the row before it. -/
theorem spritePixels_nodup (x0 y0 : Nat) (rows : List Byte) : (spritePixels x0 y0 rows).Nodup := by
  induction rows generalizing y0 with
  | nil => exact List.nodup_nil
  | cons b bs ih =>
    refine List.nodup_append.mpr ⟨rowPixels_nodup x0 y0 b, ih (y0 + 1), fun p hp q hq hpq => ?_⟩
    obtain ⟨c, -, -, rfl⟩ := mem_rowPixels.mp hp
    obtain ⟨r, -, c', -, -, rfl⟩ := mem_spritePixels.mp hq
    have hy := (Prod.mk.inj hpq).2
    omega

/-- The targets of distinct pixels are distinct when no two pixels share a cell. -/
theorem collectTargets_nodup {p : EdgePolicy} {ps : List (Nat × Nat)} {ts : List (Fin 2048)} (hps : ps.Nodup)
    (hinj : ∀ q ∈ ps, ∀ q' ∈ ps, ∀ k, target p q.1 q.2 = .cell k → target p q'.1 q'.2 = .cell k → q = q')
    (h : collectTargets p ps = some ts) : ts.Nodup := by
  induction ps generalizing ts with
  | nil =>
    obtain rfl := Option.some.inj h
    exact List.nodup_nil
  | cons q ps ih =>
    obtain ⟨hq, hps⟩ := List.nodup_cons.mp hps
    have hrest {us : List (Fin 2048)} (hus : collectTargets p ps = some us) : us.Nodup :=
      ih hps (fun a ha b hb => hinj a (List.mem_cons_of_mem q ha) b (List.mem_cons_of_mem q hb)) hus
    obtain ⟨px, py⟩ := q
    simp only [collectTargets] at h
    cases hcell : target p px py with
    | fault => simp [hcell] at h
    | skip => exact hrest (by simpa only [hcell] using h)
    | cell k =>
      simp only [hcell, Option.map_eq_some_iff] at h
      obtain ⟨us, hus, rfl⟩ := h
      refine List.nodup_cons.mpr ⟨fun hk => ?_, hrest hus⟩
      obtain ⟨q', hq', hk⟩ := (mem_collectTargets hus k).mp hk
      exact hq (hinj (px, py) List.mem_cons_self q' (List.mem_cons_of_mem _ hq') k hcell hk ▸ hq')

/-- No two pixels of a sprite share a cell under any policy: a sprite is 8 columns wide and at most 15 rows high, less
than the screen in both directions (R276). -/
theorem spritePixels_target_inj {p : EdgePolicy} {x0 y0 : Nat} {rows : List Byte} (hrows : rows.length < 16)
    {q q' : Nat × Nat} (hq : q ∈ spritePixels x0 y0 rows) (hq' : q' ∈ spritePixels x0 y0 rows) {k : Fin 2048}
    (h : target p q.1 q.2 = .cell k) (h' : target p q'.1 q'.2 = .cell k) : q = q' := by
  obtain ⟨r, hr, c, hc, -, rfl⟩ := mem_spritePixels.mp hq
  obtain ⟨r', hr', c', hc', -, rfl⟩ := mem_spritePixels.mp hq'
  rw [target_eq_cell] at h h'
  suffices c = c' ∧ r = r' by rw [this.1, this.2]
  cases p <;> simp only [PixelCell] at h h' <;> omega

/-- The target cells of one draw are distinct (R276). -/
theorem drawTargets_nodup {ts : List (Fin 2048)} (h : collectTargets s.edgePolicy (s.drawPixels x y n) = some ts) :
    ts.Nodup := by
  have hrows : (s.bytesAtI n.toNat).length < 16 := by
    rw [State.bytesAtI, Memory.readBytes_length]
    exact n.isLt
  exact collectTargets_nodup (spritePixels_nodup ..)
    (fun _ hq _ hq' _ hk hk' => spritePixels_target_inj hrows hq hq' hk hk') h

/-- Settles O39: `drawTargets_nodup`. -/
theorem drawTargetsAreDistinct : Obligations.DrawTargetsAreDistinct := fun _ _ _ _ _ => drawTargets_nodup

/-! ### The draw -/

/-- A new frame and then a new VF change nothing but the display and VF. -/
theorem changesOnlyDisplay_setFrame_setFlag (s : State) (fb : Framebuffer) (flag : Bool) (k : Nat) :
    ChangesOnlyDisplay [Reg.vf] s (((s.setFrame fb).setFlag flag).advance k) :=
  ⟨fun _ hr => readV_writeV_ne _ _ (List.ne_of_not_mem_cons hr), rfl, fun _ => rfl, ⟨rfl, rfl⟩, ⟨rfl, rfl⟩,
    ⟨rfl, rfl, rfl⟩, rfl, rfl, rfl, rfl⟩

theorem flagByte_eq_one {b : Bool} : flagByte b = 1 ↔ b = true := by cases b <;> decide
theorem flagByte_eq_zero {b : Bool} : flagByte b = 0 ↔ b = false := by cases b <;> decide

/-- What a draw over the target cells `ts` leaves: these cells toggled, in VF whether one of them was on, redraw raised,
and nothing else changed (R272). -/
theorem draw_completes (hin : s.DataInBounds n.toNat) {ts : List (Fin 2048)}
    (hts : collectTargets s.edgePolicy (s.drawPixels x y n) = some ts) :
    ∃ t collide, exec (.drw x y n) s = .next t ∧ (∀ k, t.fb.cell k = (s.fb.cell k ^^ decide (k ∈ ts))) ∧
      t.readV Reg.vf = flagByte collide ∧ (collide = true ↔ ∃ k ∈ ts, s.fb.cell k = true) ∧
      t.redraw = true ∧ t.pc = s.pc + 2 ∧ ChangesOnlyDisplay [Reg.vf] s t :=
  have hnodup := drawTargets_nodup hts
  ⟨_, _, execDrw_draws x y n hin hts, xorCells_cell hnodup s.fb, readV_writeV_self _ Reg.vf _,
    xorCells_collide hnodup s.fb, rfl, rfl, changesOnlyDisplay_setFrame_setFlag s _ _ 2⟩

/-- Settles O37: `draw_completes`, with the target cells as the cells the sprite hits. -/
theorem drawXorsTheSprite : Obligations.DrawXorsTheSprite := by
  intro x y n s
  refine ⟨encodedAs_drw x y n, fun hin hok => ?_⟩
  obtain ⟨ts, hts⟩ := Option.ne_none_iff_exists'.mp (mt spriteFaults_iff.mpr hok)
  obtain ⟨t, collide, hexec, hcell, hflag, hcollide, hredraw, hpc, hframe⟩ :=
    draw_completes (dataInBounds_nibble.mpr hin) hts
  simp only [spriteHits_iff hts]
  refine ⟨t, hexec, fun k hk => ?_, fun k hk => ?_, fun hon => ?_, fun hoff => ?_, hredraw, hpc, hframe⟩
  · simp [hcell, hk]
  · simp [hcell, hk]
  · exact hflag.trans (flagByte_eq_one.mpr (hcollide.mpr hon))
  · refine hflag.trans (flagByte_eq_zero.mpr (Bool.eq_false_iff.mpr fun h => ?_))
    obtain ⟨k, hk, hon⟩ := hcollide.mp h
    exact Bool.false_ne_true ((hoff k hk).symm.trans hon)

/-- Settles O38: the bytes are checked first, then the pixels; under WRAP and CLIP the table has no FAULT. -/
theorem drawFaultsBeforeDrawing : Obligations.DrawFaultsBeforeDrawing := by
  intro x y n s
  refine ⟨fun hn hout => execDrw_outOfBounds x y n fun hin => ?_,
    fun hin hfaults => execDrw_offScreen x y n (dataInBounds_nibble.mpr hin) (spriteFaults_iff.mp hfaults), ?_⟩
  · obtain h | h := dataInBounds_nibble.mp hin
    · exact hn h
    · omega
  · rintro (hp | hp) ⟨px, py, -, hfault⟩ <;> simp [hp, PixelFaults] at hfault

/-! ### Drawing twice -/

/-- A draw that latches no fault has passed both of its checks. -/
theorem draw_checks_of_noFault (hexec : exec (.drw x y n) s = .next t) (ht : t.fault = none) :
    s.DataInBounds n.toNat ∧ ∃ ts, collectTargets s.edgePolicy (s.drawPixels x y n) = some ts := by
  have nofault {r : FaultRecord} (h : execDrw x y n s = .next (s.latch r)) : False := by
    obtain rfl := Host.Outcome.next.inj (h.symm.trans hexec)
    cases ht
  by_cases hin : s.DataInBounds n.toNat
  · cases hts : collectTargets s.edgePolicy (s.drawPixels x y n) with
    | none => exact (nofault (execDrw_offScreen x y n hin hts)).elim
    | some ts => exact ⟨hin, ts, rfl⟩
  · exact (nofault (execDrw_outOfBounds x y n hin)).elim

/-- A draw leaves its own operands as they were, when neither coordinate is in VF: the next draw has the same pixels. -/
theorem drawPixels_of_changesOnlyDisplay (h : ChangesOnlyDisplay [Reg.vf] s t) (hx : x ≠ Reg.vf) (hy : y ≠ Reg.vf) :
    t.drawPixels x y n = s.drawPixels x y n := by
  obtain ⟨hregs, hI, hmem, -⟩ := h
  rw [State.drawPixels, hregs x (by simpa using hx), hregs y (by simpa using hy), State.bytesAtI,
    Memory.readBytes_eq, hI]
  simp only [hmem _, ← Memory.readBytes_eq]
  rfl

/-- Settles O40: both draws have the same target cells, which two toggles leave as they were; the second collides on a
cell that the first turned on. -/
theorem drawingTwiceRestoresTheScreen : Obligations.DrawingTwiceRestoresTheScreen := by
  intro x y n s t hx hy hs hexec ht
  obtain ⟨hin, ts, hts⟩ := draw_checks_of_noFault hexec ht
  obtain ⟨t', -, hexec', hfirst, -, -, -, -, hframe⟩ := draw_completes hin hts
  obtain rfl : t' = t := Host.Outcome.next.inj (hexec'.symm.trans hexec)
  have hpixels := drawPixels_of_changesOnlyDisplay (n := n) hframe hx hy
  obtain ⟨-, hI, -, -, -, -, -, hpolicy, -⟩ := hframe
  have hin' : t'.DataInBounds n.toNat := by rwa [State.DataInBounds, hI]
  have hts' : collectTargets t'.edgePolicy (t'.drawPixels x y n) = some ts := by rw [hpolicy, hpixels, hts]
  obtain ⟨u, collide, huexec, hsecond, hflag, hcollide, -, -, -, -, -, -, -, -, hufault, -⟩ := draw_completes hin' hts'
  refine ⟨u, huexec, hufault.trans ht, fun k => ?_, ?_⟩
  · rw [hsecond, hfirst, Bool.xor_assoc, Bool.xor_self, Bool.xor_false]
  · rw [hflag, flagByte_eq_one, hcollide]
    refine exists_congr fun k => ?_
    rw [spriteHits_iff hts]
    exact and_congr_right fun hk => by simp [hfirst, hk]

end Sys2Proof.Machine
end
